-- ==== Sys2Proof/Word.lean ====
section
/-! DEFINITION. The widths of the block's data: bytes, tagged frames, response words and stimulus words. -/

namespace Sys2Proof

/-- A transmit-buffer element and the data part of a frame (R14). -/
abbrev Byte := BitVec 8

/-- The error tag of a frame: bit 0 `PE`, bit 1 `FE`, bit 2 `OVR` (R13). -/
abbrev Tag := BitVec 3

/-- A receive-buffer element and a held frame: `tag[2:0] ++ byte[7:0]` (R13). -/
abbrev Frame := BitVec 11

/-- The response word of a foreground command (R65). -/
abbrev Resp := BitVec 16

/-- A stimulus word (R60). -/
abbrev Stimulus := BitVec 64

end Sys2Proof
end

