-- ==== Sys2Proof/Config.lean ====
section
/-! DEFINITION. What a build of the block fixes (R4): the parameters, their admissible values, and the channel descriptor.
The parameters are plain data carried in State (assumption 1), so that a statement about every state is a statement about
every build. -/

namespace Sys2Proof

/-- The build-time switch between the portable and the hand-tuned handlers (R95). No rule reads it. -/
inductive HandlerVariant where
  | portable
  | tuned
  deriving DecidableEq, Repr

/-- The parameters of R4 but for `NCH`, which is the number of channel records. -/
structure Params where
  /-- `N_RX = 2 ^ kRx`. -/
  kRx : Nat
  /-- `N_TX = 2 ^ kTx`. -/
  kTx : Nat
  /-- `HW_RX_DEPTH`: how many received frames the peripheral holds (R127). -/
  hwRxDepth : Nat
  /-- The pairs of baud value and frame format that `cfg_supported` refuses: the total function of R4 on its finite domain,
  written as the list of the places where it is false (assumption 3). -/
  unsupported : List (BitVec 32 × BitVec 15)
  /-- `HANDLER_VARIANT` (R95). -/
  variant : HandlerVariant
  deriving DecidableEq, Repr

/-- The capacity `N_RX` of every receive buffer (R4). -/
def Params.nRx (p : Params) : Nat := 2 ^ p.kRx

/-- The capacity `N_TX` of every transmit buffer (R4). -/
def Params.nTx (p : Params) : Nat := 2 ^ p.kTx

/-- `cfg_supported(baud, frame)` (R4): the half-duplex bit is not an argument. -/
def Params.cfgSupported (p : Params) (baud : BitVec 32) (frame : BitVec 15) : Bool :=
  !(p.unsupported.contains (baud, frame))

/-- The constraints of R4 on the parameters. -/
abbrev Params.Admissible (p : Params) : Prop :=
  (1 ≤ p.kRx ∧ p.kRx ≤ 15) ∧ (1 ≤ p.kTx ∧ p.kTx ≤ 15) ∧ 1 ≤ p.hwRxDepth

/-- The largest number of channels a build may have (R4, R10). -/
def maxChannels : Nat := 6

/-- The build of `State.reset`: the capacities and the depth of the conventions of 95_test_vectors.md. DESIGN CHOICE
(assumption 2), unsafe: R4 leaves every value open. -/
def Config.resetParams : Params where
  kRx := 2
  kTx := 2
  hwRxDepth := 2
  unsupported := []
  variant := .portable

/-- `NCH` of `State.reset`. DESIGN CHOICE (assumption 2), unsafe. -/
def Config.resetChannels : Nat := 6

/-- The hardware channel descriptor of R23: an opaque record, constant for the life of the program. -/
structure Descriptor where
  regBase : Nat
  vecDre : Nat
  vecRxc : Nat
  vecTxc : Nat
  mux : Nat
  deriving DecidableEq, Repr, Inhabited

/-- `DESC[ch]` (R4, R23). The spec gives no value and no rule reads one: no body here, and nothing in the model applies it
(assumption 21). -/
opaque Config.desc : Nat → Descriptor

end Sys2Proof
end

