-- ==== Sys2Proof/Syntax.lean ====
section
/-! DEFINITION. The fifteen stimuli of R63, with the operands of R61 and R62. -/

namespace Sys2Proof

/-- One constructor per row of the opcode map (R63). `ch` is the channel number `CH`. -/
inductive Instr where
  /-- `FG.INIT ch, baud, mode, pmux` (R111); `mode` is `HD ++ FRAME` (R62). -/
  | fgInit (ch : BitVec 4) (pmux : BitVec 4) (mode : BitVec 16) (baud : BitVec 32)
  /-- `FG.START ch, f` (R112). -/
  | fgStart (ch : BitVec 4) (f : Bool)
  /-- `FG.STOP ch, f` (R113); `f` is `release_pins`. -/
  | fgStop (ch : BitVec 4) (f : Bool)
  /-- `FG.WRITE ch, data, nb` (R114); `nb` true is the non-blocking form. -/
  | fgWrite (ch : BitVec 4) (nb : Bool) (data : Byte)
  /-- `FG.READ ch` (R115). -/
  | fgRead (ch : BitVec 4)
  /-- `FG.AVAIL ch` (R116). -/
  | fgAvail (ch : BitVec 4)
  /-- `FG.FREE ch` (R117). -/
  | fgFree (ch : BitVec 4)
  /-- `FG.FLUSH ch` (R118). -/
  | fgFlush (ch : BitVec 4)
  /-- `FG.STATUS ch` (R119). -/
  | fgStatus (ch : BitVec 4)
  /-- `ISR.DRE ch` (R91). -/
  | isrDre (ch : BitVec 4)
  /-- `ISR.RXC ch` (R92). -/
  | isrRxc (ch : BitVec 4)
  /-- `ISR.TXC ch` (R93). -/
  | isrTxc (ch : BitVec 4)
  /-- `PER.RXFRAME ch, data, err` (R128). -/
  | perRxframe (ch : BitVec 4) (err : Tag) (data : Byte)
  /-- `PER.LOAD ch` (R129). -/
  | perLoad (ch : BitVec 4)
  /-- `PER.SHIFTDONE ch, echo, err` (R130). -/
  | perShiftdone (ch : BitVec 4) (echo : Bool) (err : Tag)
  deriving DecidableEq, Repr

/-- The channel number every stimulus carries in `[55:52]` (R60). -/
def Instr.ch : Instr → BitVec 4
  | .fgInit ch _ _ _ => ch
  | .fgStart ch _ => ch
  | .fgStop ch _ => ch
  | .fgWrite ch _ _ => ch
  | .fgRead ch => ch
  | .fgAvail ch => ch
  | .fgFree ch => ch
  | .fgFlush ch => ch
  | .fgStatus ch => ch
  | .isrDre ch => ch
  | .isrRxc ch => ch
  | .isrTxc ch => ch
  | .perRxframe ch _ _ => ch
  | .perLoad ch => ch
  | .perShiftdone ch _ _ => ch

/-- Whether the stimulus is a foreground command, class `FG` (R60, R145). -/
def Instr.isForeground : Instr → Bool
  | .fgInit .. => true
  | .fgStart .. => true
  | .fgStop .. => true
  | .fgWrite .. => true
  | .fgRead .. => true
  | .fgAvail .. => true
  | .fgFree .. => true
  | .fgFlush .. => true
  | .fgStatus .. => true
  | .isrDre .. => false
  | .isrRxc .. => false
  | .isrTxc .. => false
  | .perRxframe .. => false
  | .perLoad .. => false
  | .perShiftdone .. => false

/-- The stimulus's name in the opcode map (R63). -/
def Instr.mnemonic : Instr → String
  | .fgInit .. => "FG.INIT"
  | .fgStart .. => "FG.START"
  | .fgStop .. => "FG.STOP"
  | .fgWrite .. => "FG.WRITE"
  | .fgRead .. => "FG.READ"
  | .fgAvail .. => "FG.AVAIL"
  | .fgFree .. => "FG.FREE"
  | .fgFlush .. => "FG.FLUSH"
  | .fgStatus .. => "FG.STATUS"
  | .isrDre .. => "ISR.DRE"
  | .isrRxc .. => "ISR.RXC"
  | .isrTxc .. => "ISR.TXC"
  | .perRxframe .. => "PER.RXFRAME"
  | .perLoad .. => "PER.LOAD"
  | .perShiftdone .. => "PER.SHIFTDONE"

end Sys2Proof
end

