-- ==== Sys2Proof/WellFormed.lean ====
section
/-! DEFINITION. The one check an instruction must pass beside the widths its fields already have: its channel exists. -/

namespace Sys2Proof

/-- A stimulus is legal in a build of `nch` channels when `CH < NCH` (R64 (d)); every value of every other operand field is
legal (R64). -/
abbrev Instr.WellFormed (nch : Nat) (i : Instr) : Prop := i.ch.toNat < nch

end Sys2Proof
end

