-- ==== Sys2Proof/Decode.lean ====
section
/-! DEFINITION. The stimulus word: its fields (R60 to R62), the opcode map (R63), the decoder with the refusals of R64 in
their order, the little-endian byte form (R42, R68), and the encoder. Every bit position is the spec's own decision D1, D2. -/

namespace Sys2Proof

/-- Why a word is no legal stimulus; the clauses (a) to (d) of R64 in the order they are tested. -/
inductive DecodeError where
  /-- (a) `CLS` is none of 1, 2, 3. -/
  | badClass
  /-- (b) `OP` is not one listed for the class. -/
  | badOp
  /-- (c) a bit the format requires to be 0 is 1. -/
  | reservedBits
  /-- (d) `CH ≥ NCH`. -/
  | absentChannel
  /-- Fewer than the eight bytes of a word (R68). -/
  | truncated
  deriving DecidableEq, Repr

/-! ### Fields of a word (R60) -/

/-- `CLS`, bits `[63:60]`. -/
def wordCls (w : Stimulus) : BitVec 4 := w.extractLsb' 60 4
/-- `OP`, bits `[59:56]`. -/
def wordOp (w : Stimulus) : BitVec 4 := w.extractLsb' 56 4
/-- `CH`, bits `[55:52]`. -/
def wordCh (w : Stimulus) : BitVec 4 := w.extractLsb' 52 4
/-- `PMUX`, bits `[51:48]`. -/
def wordPmux (w : Stimulus) : BitVec 4 := w.extractLsb' 48 4
/-- `MODE`, bits `[47:32]`. -/
def wordMode (w : Stimulus) : BitVec 16 := w.extractLsb' 32 16
/-- `BAUD`, bits `[31:0]`. -/
def wordBaud (w : Stimulus) : BitVec 32 := w.extractLsb' 0 32
/-- `DATA`, bits `[7:0]`. -/
def wordData (w : Stimulus) : Byte := w.extractLsb' 0 8
/-- `ERR`, bits `[10:8]`. -/
def wordErr (w : Stimulus) : Tag := w.extractLsb' 8 3
/-- `F`, bit 0. -/
def wordF (w : Stimulus) : Bool := w.getLsbD 0
/-- `NB`, bit 8. -/
def wordNb (w : Stimulus) : Bool := w.getLsbD 8
/-- `ECHO`, bit 16. -/
def wordEcho (w : Stimulus) : Bool := w.getLsbD 16

/-! ### Formats (R61): the bits each requires to be 0 -/

/-- Format `Z`: `W[51:0] = 0`. -/
def formatZ (w : Stimulus) : Bool := w.extractLsb' 0 52 == 0
/-- Format `F`: `W[51:1] = 0`. -/
def formatF (w : Stimulus) : Bool := w.extractLsb' 1 51 == 0
/-- Format `D`: `W[51:9] = 0`. -/
def formatD (w : Stimulus) : Bool := w.extractLsb' 9 43 == 0
/-- Format `R`: `W[51:11] = 0`. -/
def formatR (w : Stimulus) : Bool := w.extractLsb' 11 41 == 0
/-- Format `S`: `W[7:0] = 0`, `W[15:11] = 0`, `W[51:17] = 0`. -/
def formatS (w : Stimulus) : Bool :=
  w.extractLsb' 0 8 == 0 && w.extractLsb' 11 5 == 0 && w.extractLsb' 17 35 == 0

/-- Accept the instruction if the format's must-be-zero bits are 0 (R64 (c)). -/
def checked (ok : Bool) (i : Instr) : Except DecodeError Instr :=
  if ok then .ok i else .error .reservedBits

/-! ### The decoder -/

/-- Class `FG` of R63. -/
def decodeFg (w : Stimulus) : Except DecodeError Instr :=
  match (wordOp w).toNat with
  | 0 => .ok (.fgInit (wordCh w) (wordPmux w) (wordMode w) (wordBaud w))
  | 1 => checked (formatF w) (.fgStart (wordCh w) (wordF w))
  | 2 => checked (formatF w) (.fgStop (wordCh w) (wordF w))
  | 3 => checked (formatD w) (.fgWrite (wordCh w) (wordNb w) (wordData w))
  | 4 => checked (formatZ w) (.fgRead (wordCh w))
  | 5 => checked (formatZ w) (.fgAvail (wordCh w))
  | 6 => checked (formatZ w) (.fgFree (wordCh w))
  | 7 => checked (formatZ w) (.fgFlush (wordCh w))
  | 8 => checked (formatZ w) (.fgStatus (wordCh w))
  | _ => .error .badOp

/-- Class `ISR` of R63. -/
def decodeIsr (w : Stimulus) : Except DecodeError Instr :=
  match (wordOp w).toNat with
  | 0 => checked (formatZ w) (.isrDre (wordCh w))
  | 1 => checked (formatZ w) (.isrRxc (wordCh w))
  | 2 => checked (formatZ w) (.isrTxc (wordCh w))
  | _ => .error .badOp

/-- Class `PER` of R63. -/
def decodePer (w : Stimulus) : Except DecodeError Instr :=
  match (wordOp w).toNat with
  | 0 => checked (formatR w) (.perRxframe (wordCh w) (wordErr w) (wordData w))
  | 1 => checked (formatZ w) (.perLoad (wordCh w))
  | 2 => checked (formatS w) (.perShiftdone (wordCh w) (wordEcho w) (wordErr w))
  | _ => .error .badOp

/-- The clauses (a) to (c) of R64: the row of R63 the word belongs to, whatever channels there are. -/
def decodeRow (w : Stimulus) : Except DecodeError Instr :=
  match (wordCls w).toNat with
  | 1 => decodeFg w
  | 2 => decodeIsr w
  | 3 => decodePer w
  | _ => .error .badClass

/-- The decoder of a build with `nch` channels (R68): clauses (a) to (d) of R64, in that order. -/
def decode (nch : Nat) (w : Stimulus) : Except DecodeError Instr :=
  match decodeRow w with
  | .error e => .error e
  | .ok i => if i.ch.toNat < nch then .ok i else .error .absentChannel

/-! ### The byte form of a word (R42) -/

/-- The `n` low bytes of `w`, the byte holding bits `[7:0]` first. -/
def wordBytes : Nat → Nat → List Byte
  | 0, _ => []
  | n + 1, w => BitVec.ofNat 8 w :: wordBytes n (w / 256)

/-- The number whose bytes these are, the first one lowest. -/
def bytesValue : List Byte → Nat
  | [] => 0
  | b :: bs => b.toNat + 256 * bytesValue bs

/-- Decode the first eight bytes of a stream and give back the rest (R42, R68). -/
def decodeBytes (nch : Nat) (bs : List Byte) : Except DecodeError (Instr × List Byte) :=
  if bs.length < 8 then .error .truncated
  else
    match decode nch (BitVec.ofNat 64 (bytesValue (bs.take 8))) with
    | .error e => .error e
    | .ok i => .ok (i, bs.drop 8)

/-- A stimulus word as a harness stores it in a byte memory (R42). -/
def stimulusBytes (w : Stimulus) : List Byte := wordBytes 8 w.toNat

/-- A response word as a harness stores it in a byte memory (R42). -/
def respBytes (r : Resp) : List Byte := wordBytes 2 r.toNat

/-- The response word at the front of a byte stream, with the rest (R42); none where fewer than its two bytes are left. -/
def readResp (bs : List Byte) : Option (Resp × List Byte) :=
  if bs.length < 2 then none else some (BitVec.ofNat 16 (bytesValue (bs.take 2)), bs.drop 2)

/-- The instruction the decoder reads from a table row's word of `nbits` bits, in the build of `State.reset`
(assumption 23): the word is laid out as eight little-endian bytes (R42). -/
def decodeTableWord (nbits w : Nat) : Option Instr :=
  match decodeBytes Config.resetChannels (wordBytes 8 (w % 2 ^ nbits)) with
  | .ok (i, _) => some i
  | .error _ => none

/-! ### The encoder -/

/-- Lay out a word: `CLS ++ OP ++ CH ++ W[51:0]` (R60). -/
def layout (cls op ch : BitVec 4) (operands : BitVec 52) : Stimulus :=
  (cls ++ op ++ ch ++ operands : BitVec (4 + 4 + 4 + 52))

/-- `W[51:0]` of format `I` (R61). -/
def operandsI (pmux : BitVec 4) (mode : BitVec 16) (baud : BitVec 32) : BitVec 52 :=
  (pmux ++ mode ++ baud : BitVec (4 + 16 + 32))
/-- `W[51:0]` of format `F`. -/
def operandsF (f : Bool) : BitVec 52 := (0#51 ++ BitVec.ofBool f : BitVec (51 + 1))
/-- `W[51:0]` of format `D`. -/
def operandsD (nb : Bool) (data : Byte) : BitVec 52 :=
  (0#43 ++ BitVec.ofBool nb ++ data : BitVec (43 + 1 + 8))
/-- `W[51:0]` of format `R`. -/
def operandsR (err : Tag) (data : Byte) : BitVec 52 := (0#41 ++ err ++ data : BitVec (41 + 3 + 8))
/-- `W[51:0]` of format `S`. -/
def operandsS (echo : Bool) (err : Tag) : BitVec 52 :=
  (0#35 ++ BitVec.ofBool echo ++ 0#5 ++ err ++ 0#8 : BitVec (35 + 1 + 5 + 3 + 8))

/-- The word of an instruction, from the tables of R61 and R63. -/
def encode : Instr → Stimulus
  | .fgInit ch pmux mode baud => layout 1 0 ch (operandsI pmux mode baud)
  | .fgStart ch f => layout 1 1 ch (operandsF f)
  | .fgStop ch f => layout 1 2 ch (operandsF f)
  | .fgWrite ch nb data => layout 1 3 ch (operandsD nb data)
  | .fgRead ch => layout 1 4 ch 0
  | .fgAvail ch => layout 1 5 ch 0
  | .fgFree ch => layout 1 6 ch 0
  | .fgFlush ch => layout 1 7 ch 0
  | .fgStatus ch => layout 1 8 ch 0
  | .isrDre ch => layout 2 0 ch 0
  | .isrRxc ch => layout 2 1 ch 0
  | .isrTxc ch => layout 2 2 ch 0
  | .perRxframe ch err data => layout 3 0 ch (operandsR err data)
  | .perLoad ch => layout 3 1 ch 0
  | .perShiftdone ch echo err => layout 3 2 ch (operandsS echo err)

/-! ### The opcode map as a table of masks (R63) -/

/-- A row of the opcode map. -/
structure Row where
  mnemonic : String
  pattern : Stimulus
  mask : Stimulus
  deriving DecidableEq, Repr

/-- The mask of formats `Z`, `F`, `D`, `R`, `S` and `I`, in this order. -/
def maskZ : Stimulus := 0xFF0FFFFFFFFFFFFF
def maskF : Stimulus := 0xFF0FFFFFFFFFFFFE
def maskD : Stimulus := 0xFF0FFFFFFFFFFE00
def maskR : Stimulus := 0xFF0FFFFFFFFFF800
def maskS : Stimulus := 0xFF0FFFFFFFFEF8FF
def maskI : Stimulus := 0xFF00000000000000

/-- The nine `FG` rows. -/
def fgRows : List Row :=
  [⟨"FG.INIT", 0x1000000000000000, maskI⟩, ⟨"FG.START", 0x1100000000000000, maskF⟩,
   ⟨"FG.STOP", 0x1200000000000000, maskF⟩, ⟨"FG.WRITE", 0x1300000000000000, maskD⟩,
   ⟨"FG.READ", 0x1400000000000000, maskZ⟩, ⟨"FG.AVAIL", 0x1500000000000000, maskZ⟩,
   ⟨"FG.FREE", 0x1600000000000000, maskZ⟩, ⟨"FG.FLUSH", 0x1700000000000000, maskZ⟩,
   ⟨"FG.STATUS", 0x1800000000000000, maskZ⟩]

/-- The three `ISR` rows. -/
def isrRows : List Row :=
  [⟨"ISR.DRE", 0x2000000000000000, maskZ⟩, ⟨"ISR.RXC", 0x2100000000000000, maskZ⟩,
   ⟨"ISR.TXC", 0x2200000000000000, maskZ⟩]

/-- The three `PER` rows. -/
def perRows : List Row :=
  [⟨"PER.RXFRAME", 0x3000000000000000, maskR⟩, ⟨"PER.LOAD", 0x3100000000000000, maskZ⟩,
   ⟨"PER.SHIFTDONE", 0x3200000000000000, maskS⟩]

/-- The fifteen rows of R63. -/
def opcodeTable : List Row := fgRows ++ isrRows ++ perRows

/-- A word is the stimulus of a row exactly when `W & mask = match` (R63). -/
abbrev Row.Matches (r : Row) (w : Stimulus) : Prop := w &&& r.mask = r.pattern

end Sys2Proof
end

