-- ==== Sys2Proof/Machine/State.lean ====
section
/-! DEFINITION. The block's whole state as plain data (10_state.md), the reasons a stimulus can stop, and the state after
reset (R29). -/

namespace Sys2Proof.Machine

/-- A storage (R40): pairs of a slot index and the element in it, in one canonical form, indices strictly rising. A slot that
is not listed holds no value (R50). -/
abbrev Memory (w : Nat) := List (Nat × BitVec w)

/-- A circular buffer (R11). The indices are numbers below the capacity (R12, assumption 13). -/
structure Buf (w : Nat) where
  storage : Memory w
  /-- Next write index. -/
  head : Nat
  /-- Next read index. -/
  tail : Nat
  /-- Number of queued elements. -/
  count : Nat
  /-- Overflow indicator, sticky. -/
  ovf : Bool
  deriving DecidableEq, Repr

/-- The state of the channel state machine (R15, R100). There is no fourth value (U3). -/
inductive Mode where
  | stopped
  | idle
  | transmitting
  deriving DecidableEq, Repr

/-- The 2-bit encoding of `C.MODE` (R15). -/
def Mode.code : Mode → BitVec 2
  | .stopped => 0
  | .idle => 1
  | .transmitting => 2

/-- A channel record (R10): the block's own fields (R11 to R22), the peripheral-side state (R24) and the ghost `WIRE` (R26). -/
structure Channel where
  /-- `C.RX` (R11, R13). -/
  rx : Buf 11
  /-- `C.TX` (R11, R14). -/
  tx : Buf 8
  /-- `C.MODE` (R15). -/
  mode : Mode
  /-- `C.HD` (R16). -/
  hd : Bool
  /-- `C.SKIP` (R17). -/
  skip : Bool
  /-- `C.ERRS` (R19). -/
  errs : BitVec 3
  /-- `C.DREIE` (R20). -/
  dreie : Bool
  /-- `C.RXCIE` (R20). -/
  rxcie : Bool
  /-- `C.TXCIE` (R20). -/
  txcie : Bool
  /-- `C.BAUD` (R21). -/
  baud : BitVec 32
  /-- `C.FRAME` (R21). -/
  frame : BitVec 15
  /-- `C.PMUX` (R21). -/
  pmux : BitVec 4
  /-- `C.CONFIGURED` (R21). -/
  configured : Bool
  /-- `C.PINS` (R22). -/
  pins : Bool
  /-- `C.RXHOLD` (R24), oldest first. -/
  rxhold : List Frame
  /-- `C.TXDR` (R24). -/
  txdr : Option Byte
  /-- `C.TXSR` (R24). -/
  txsr : Option Byte
  /-- `C.TXC` (R24). -/
  txc : Bool
  /-- `C.WIRE` (R26), oldest first. -/
  wire : List Byte
  deriving DecidableEq, Repr

/-- A held foreground command (R7): only a blocking `FG.WRITE` and `FG.FLUSH` can be held (R110 (b)). -/
inductive HeldCmd where
  | write (ch : BitVec 4) (data : Byte)
  | flush (ch : BitVec 4)
  deriving DecidableEq, Repr

/-- The state of the whole block. -/
structure State where
  /-- The build's parameters (R4); no step writes them (assumption 1). -/
  par : Params
  /-- `CHAN[0] .. CHAN[NCH-1]` (R10). -/
  chans : List Channel
  /-- The outstanding foreground command (R8). -/
  held : Option HeldCmd
  /-- What the last step returned (R65): none for an `ISR` or `PER` step and for a command that is held. -/
  resp : Option Resp
  /-- The stimuli still to come, the next one first: the schedule (assumption 6). -/
  stimuli : List Stimulus
  deriving DecidableEq, Repr

/-- The faults of the model: the block has none (R7, R135). -/
inductive Fault where
  /-- `pop` read a slot no `push` has written (R50, U1). Raised by `FG.READ` and `ISR.DRE`, only in states no run reaches.
  Safe: the model stops where the spec gives no value. -/
  | unwrittenSlot
  /-- `TxDataWrite` on an occupied data register (U4). Raised by `txDataWrite`, which `ISR.DRE` calls only when the register
  is empty. Safe: the model stops where the spec gives no effect. -/
  | dataRegisterOccupied
  deriving DecidableEq, Repr

/-- An interrupt source of a channel (R137). -/
inductive Source where
  | dre
  | rxc
  | txc
  deriving DecidableEq, Repr

/-- The refusals: nothing changes and the spec gives the stimulus no meaning (R7). -/
inductive Refusal where
  /-- `exec` has no meaning for the instruction yet. Raised by no arm of this model. Safe. -/
  | notModelled (mnemonic : String)
  /-- The next word is no legal stimulus (R64). Raised by `step`. Safe. -/
  | illegalWord (e : DecodeError)
  /-- The channel is not compiled in (R10, R64 (d)). Raised by every meaning. Safe. -/
  | absentChannel
  /-- The handler's interrupt is not pending (R90, R139). Raised by the three `ISR` meanings. Safe. -/
  | notPending (src : Source)
  /-- `PER.LOAD` with no byte in `TXDR`, or with `TXSR` occupied (R129). Safe. -/
  | loadNotEnabled
  /-- `PER.SHIFTDONE` with no byte in `TXSR` (R130). Safe. -/
  | shiftNotEnabled
  /-- A foreground command while another is held (R8, R146). Raised by the nine `FG` meanings. Safe (assumption 9). -/
  | portBusy
  /-- No stimulus is left and no held command is ready: the run is over (R164). Raised by `step`. Safe. -/
  | noStimulus
  deriving DecidableEq, Repr

/-- A buffer after reset (R29): empty, every slot without a value. -/
def Buf.reset (w : Nat) : Buf w where
  storage := []
  head := 0
  tail := 0
  count := 0
  ovf := false

/-- The configuration latches' contents, which R29 leaves unspecified at reset (U2). -/
structure Latches where
  baud : BitVec 32
  frame : BitVec 15
  pmux : BitVec 4
  deriving DecidableEq, Repr

/-- A channel after reset (R29), with the contents its unspecified latches happen to have. -/
def Channel.reset (l : Latches) : Channel where
  rx := Buf.reset 11
  tx := Buf.reset 8
  mode := .stopped
  hd := false
  skip := false
  errs := 0
  dreie := false
  rxcie := false
  txcie := false
  baud := l.baud
  frame := l.frame
  pmux := l.pmux
  configured := false
  pins := false
  rxhold := []
  txdr := none
  txsr := none
  txc := false
  wire := []

/-- The block right after reset (R160, R161) in the build `p`, with one channel per entry of `ls`. -/
def State.resetOf (p : Params) (ls : List Latches) : State where
  par := p
  chans := ls.map Channel.reset
  held := none
  resp := none
  stimuli := []

/-- The latches of `State.reset`: DESIGN CHOICE zero (assumption 4), unsafe. -/
def Latches.zero : Latches := ⟨0, 0, 0⟩

/-- The state right after reset in the build of `Config.resetParams` (R29, R161, R165; assumptions 2 and 4). -/
def State.reset : State :=
  State.resetOf Config.resetParams (List.replicate Config.resetChannels Latches.zero)

end Sys2Proof.Machine
end

