-- ==== Sys2Proof/Machine/Operands.lean ====
section
/-! DEFINITION. Operand assembly (R62) and the channel a stimulus addresses (R10, R60). -/

namespace Sys2Proof.Machine

/-- `HD = MODE[15]` (R62). -/
def modeHd (mode : BitVec 16) : Bool := mode.getLsbD 15

/-- `FRAME = MODE[14:0]` (R62). -/
def modeFrame (mode : BitVec 16) : BitVec 15 := mode.extractLsb' 0 15

/-- The 11-bit frame `ERR ++ DATA` (R62). -/
def mkFrame (err : Tag) (data : Byte) : Frame := (err ++ data : BitVec (3 + 8))

/-- The error tag of a frame, bits `[10:8]` (R13). -/
def frameTag (v : Frame) : Tag := v.extractLsb' 8 3

/-- The data byte of a frame, bits `[7:0]` (R13). -/
def frameByte (v : Frame) : Byte := v.extractLsb' 0 8

/-- The channel record `CHAN[ch]`, if it is compiled in (R10). -/
def State.chan? (s : State) (ch : BitVec 4) : Option Channel := s.chans[ch.toNat]?

/-- The state after a performed step on channel `ch`: its record is `c`, and the step returned `r` (R6, R65). -/
def State.put (s : State) (ch : BitVec 4) (c : Channel) (r : Option Resp) : State :=
  { s with chans := s.chans.set ch.toNat c, resp := r }

/-- The state after a command has been held (R7): it is outstanding, and nothing was returned. -/
def State.hold (s : State) (cmd : HeldCmd) : State := { s with held := some cmd, resp := none }

/-- The command a held command stands for: only a blocking write and a flush can be held (R7, R110). -/
def heldInstr : HeldCmd → Instr
  | .write ch data => .fgWrite ch false data
  | .flush ch => .fgFlush ch

end Sys2Proof.Machine
end

