-- ==== Sys2Proof/Machine/Flags.lean ====
section
/-! DEFINITION. The computed signals: conditions, pending interrupts, command guards, sticky flags and response words. -/

namespace Sys2Proof.Machine

/-! ### Conditions and pending interrupts (R25, R137) -/

/-- The condition of a source: a level computed from the peripheral-side state (R25). -/
def condition (c : Channel) : Source → Bool
  | .dre => c.txdr.isNone
  | .rxc => !c.rxhold.isEmpty
  | .txc => c.txc

/-- The enable bit of a source (R137). -/
def enabled (c : Channel) : Source → Bool
  | .dre => c.dreie
  | .rxc => c.rxcie
  | .txc => c.txcie

/-- An interrupt is pending when its condition and its enable are both 1 (R25, R139). -/
def pending (c : Channel) (src : Source) : Bool := condition c src && enabled c src

/-! ### Guards of the two commands that can be held (R110) -/

/-- The guard of a blocking `FG.WRITE` (R114). -/
def writeGuard (p : Params) (c : Channel) : Bool := c.mode == .stopped || decide (c.tx.count < p.nTx)

/-- The guard of `FG.FLUSH` (R118), which does not look at `TXDR` and `TXSR`: DEDUCED (assumption 25), unsafe. -/
def flushGuard (c : Channel) : Bool := c.mode == .stopped || (c.tx.count == 0 && c.mode != .transmitting)

/-! ### Sticky flags -/

/-- `C.ERRS` after `ISR.RXC` has read a frame: bits are or-ed in, none is cleared (R19, R92). -/
def errsAfter (errs : BitVec 3) (v : Frame) : BitVec 3 := errs ||| frameTag v

/-! ### Response words (R65) -/

/-- A one-bit result in bit 0. -/
def respBit (b : Bool) : Resp := (BitVec.ofBool b).setWidth 16

/-- A count, zero-extended. -/
def respCount (n : Nat) : Resp := BitVec.ofNat 16 n

/-- `VALID ++ 0 ++ tag ++ byte` of a received element, all zero for none (R115). -/
def respRead : Option Frame → Resp
  | none => 0
  | some v => 0x8000#16 ||| v.setWidth 16

/-- `TX.ovf ++ RX.ovf ++ ERRS` (R119). -/
def respStatus (c : Channel) : Resp :=
  (BitVec.ofBool c.tx.ovf ++ BitVec.ofBool c.rx.ovf ++ c.errs : BitVec (1 + 1 + 3)).setWidth 16

end Sys2Proof.Machine
end

