-- ==== Sys2Proof/Machine/Ops.lean ====
section
/-! DEFINITION. The named operations: storages (20_memory.md), the circular buffer (40_circular_buffer.md), the two
data-register primitives (44_peripheral_events.md), the four transition helpers (42_mode_state_machine.md), and what every
command and every handler does before its own rule (R8, R90, R139). The block takes no exception and has no return from one
(R135, R142, R143): `dispatch` is the whole of interrupt entry. -/

namespace Sys2Proof.Machine

/-! ### Storage (R40, R43, R50) -/

/-- `MemRead`: the element in slot `i`, none where no `push` has written it (R43, R50). -/
def Memory.read {w : Nat} : Memory w → Nat → Option (BitVec w)
  | [], _ => none
  | (k, v) :: m, i => if k = i then some v else Memory.read m i

/-- `MemWrite`: slot `i` holds `v`, every other slot as before (R43); the list stays strictly rising. -/
def Memory.write {w : Nat} : Memory w → Nat → BitVec w → Memory w
  | [], i, v => [(i, v)]
  | (k, x) :: m, i, v =>
    if i < k then (i, v) :: (k, x) :: m
    else if i = k then (i, v) :: m
    else (k, x) :: Memory.write m i v

/-- The canonical form of a storage of `n` slots whose indices are all at least `lo`: strictly rising indices below `n`. -/
def Memory.wfFrom {w : Nat} (n : Nat) : Nat → Memory w → Bool
  | _, [] => true
  | lo, (k, _) :: m => decide (lo ≤ k) && decide (k < n) && Memory.wfFrom n (k + 1) m

/-- The canonical form of a storage of `n` slots. -/
def Memory.wf {w : Nat} (n : Nat) (m : Memory w) : Bool := Memory.wfFrom n 0 m

/-! ### The circular buffer of capacity `n` (R80 to R84) -/

/-- `push(B, v)` (R80): the new buffer and whether the element was stored. -/
def push {w : Nat} (n : Nat) (b : Buf w) (v : BitVec w) : Buf w × Bool :=
  if b.count = n then ({ b with ovf := true }, false)
  else
    ({ b with
        storage := b.storage.write b.head v
        head := (b.head + 1) % n
        count := b.count + 1 }, true)

/-- `pop(B)` (R81): the oldest element, if there is one, and the new buffer. A slot that holds no value is a fault of the
model (R50). -/
def pop {w : Nat} (n : Nat) (b : Buf w) : Except Fault (Option (BitVec w) × Buf w) :=
  if b.count = 0 then .ok (none, b)
  else
    match b.storage.read b.tail with
    | none => .error .unwrittenSlot
    | some v => .ok (some v, { b with tail := (b.tail + 1) % n, count := b.count - 1 })

/-- `available(B)` (R82). -/
def available {w : Nat} (b : Buf w) : Nat := b.count

/-- `free_space(B)` (R83). -/
def freeSpace {w : Nat} (n : Nat) (b : Buf w) : Nat := n - b.count

/-- `clear(B)` (R84): the storage is not erased. -/
def clear {w : Nat} (b : Buf w) : Buf w := { b with head := 0, tail := 0, count := 0, ovf := false }

/-- The queued elements, oldest first: `storage[(tail + j) mod N]` for `j = 0 .. count-1` (R12). -/
def queued {w : Nat} (n : Nat) (b : Buf w) : List (BitVec w) :=
  (List.range b.count).filterMap fun j => b.storage.read ((b.tail + j) % n)

/-! ### The data-register primitives (R126, R127) -/

/-- `TxDataWrite(C, b)` (R126): fills `TXDR` and clears `TXC`. An occupied register is a fault of the model (U4). -/
def txDataWrite (c : Channel) (b : Byte) : Except Fault Channel :=
  match c.txdr with
  | some _ => .error .dataRegisterOccupied
  | none => .ok { c with txdr := some b, txc := false }

/-- `RxDataRead(C)` (R127): the oldest held frame and the channel without it; none where no frame is held (U6). -/
def rxDataRead (c : Channel) : Option (Frame × Channel) :=
  match c.rxhold with
  | [] => none
  | v :: rest => some (v, { c with rxhold := rest })

/-- The loop of `end_transmit` (R103): read and discard until no frame is held, at most `fuel` reads. -/
def discardHeld : Nat → Channel → Channel
  | 0, c => c
  | fuel + 1, c =>
    match rxDataRead c with
    | none => c
    | some (_, c') => discardHeld fuel c'

/-- A frame reaches the receiver (R128): held if there is room, lost otherwise. -/
def receiveFrame (depth : Nat) (c : Channel) (v : Frame) : Channel :=
  if c.rxhold.length < depth then { c with rxhold := c.rxhold ++ [v] } else c

/-! ### The transition helpers (R101 to R104) -/

/-- `enter_idle(C)`, transition T1 (R101). -/
def enterIdle (c : Channel) : Channel :=
  { c with
    rx := clear c.rx
    tx := clear c.tx
    skip := false
    dreie := false
    txcie := false
    rxcie := true
    mode := .idle }

/-- `begin_transmit(C)`, transition T2 (R102). -/
def beginTransmit (c : Channel) : Channel :=
  let c := if c.hd then { c with rxcie := false, skip := true } else c
  { c with txcie := true, mode := .transmitting }

/-- `end_transmit(C)`, transition T3 (R103): on a half-duplex channel discard first, then re-arm. -/
def endTransmit (c : Channel) : Channel :=
  let c :=
    if c.hd && c.skip then
      { discardHeld c.rxhold.length c with skip := false, rxcie := true }
    else c
  { c with txcie := false, mode := .idle }

/-- `enter_stopped(C)`, transition T4 (R104). -/
def enterStopped (c : Channel) : Channel :=
  { c with dreie := false, rxcie := false, txcie := false, skip := false, mode := .stopped }

/-! ### What a stimulus does before its own rule -/

/-- The outcomes of a step of this machine. -/
abbrev Result := Host.Outcome State Fault Refusal

/-- A stimulus acts on the channel it names; a channel that is not compiled in is refused (R10, R64 (d)). -/
def onChannel (s : State) (ch : BitVec 4) (f : Channel → Result) : Result :=
  match s.chan? ch with
  | none => .refused .absentChannel
  | some c => f c

/-- A foreground command needs the foreground port: it is refused while another command is held (R8). -/
def foreground (s : State) (ch : BitVec 4) (f : Channel → Result) : Result :=
  onChannel s ch fun c => if s.held.isSome then .refused .portBusy else f c

/-- Dispatch of a handler (R139, R142): entered exactly when its interrupt is pending; nothing is saved. -/
def dispatch (s : State) (ch : BitVec 4) (src : Source) (f : Channel → Result) : Result :=
  onChannel s ch fun c => if pending c src then f c else .refused (.notPending src)

/-- A performed foreground command: the channel's new record and the response (R65). -/
def respond (s : State) (ch : BitVec 4) (cr : Channel × Resp) : Result := .next (s.put ch cr.1 (some cr.2))

/-- A performed `ISR` or `PER` stimulus: the channel's new record and no response (R65). -/
def perform (s : State) (ch : BitVec 4) (c : Channel) : Result := .next (s.put ch c none)

/-- A fault of the model stops the step; a value goes on. -/
def orFault {α : Type} (r : Except Fault α) (f : α → Result) : Result :=
  match r with
  | .error e => .fault e
  | .ok a => f a

/-! ### Whose turn it is (R6, R7, R8) -/

/-- The outstanding command, if its guard is true now: it is performed at the first such point (R7, assumption 8). -/
def heldReady (s : State) : Option Instr :=
  match s.held with
  | none => none
  | some (.write ch data) =>
    match s.chan? ch with
    | none => none
    | some c => if writeGuard s.par c then some (heldInstr (.write ch data)) else none
  | some (.flush ch) =>
    match s.chan? ch with
    | none => none
    | some c => if flushGuard c then some (heldInstr (.flush ch)) else none

/-- The next instruction to run and the state it runs in: the held command once its guard is true, else the next stimulus
word of the schedule, decoded (R64, R68). -/
def takeTurn (s : State) : Except Refusal (Instr × State) :=
  match heldReady s with
  | some i => .ok (i, { s with held := none })
  | none =>
    match s.stimuli with
    | [] => .error .noStimulus
    | w :: rest =>
      match decode s.chans.length w with
      | .error e => .error (.illegalWord e)
      | .ok i => .ok (i, { s with stimuli := rest })

/-- Place one stimulus word as the next one to be taken, with the foreground port free (assumption 28). -/
def placeStimulus (s : State) (w : Stimulus) : State := { s with held := none, stimuli := w :: s.stimuli }

/-- Drop the next stimulus word: what a harness does with a refused one, since a refusal changes nothing (R7,
assumption 11). -/
def dropStimulus (s : State) : State := { s with stimuli := s.stimuli.tail }

end Sys2Proof.Machine
end

