-- ==== Sys2Proof/Machine/Foreground.lean ====
section
/-! DEFINITION. The nine foreground commands (43_foreground_ops.md): for each, what it does to the channel record, and its
meaning. -/

namespace Sys2Proof.Machine

/-- `FG.INIT` on a channel (R111): stop it; on a supported configuration latch, clear, claim the pins and enter idle. -/
def initChannel (p : Params) (c : Channel) (pmux : BitVec 4) (mode : BitVec 16) (baud : BitVec 32) : Channel × Resp :=
  if p.cfgSupported baud (modeFrame mode) then
    (enterIdle
      { enterStopped c with
        hd := modeHd mode
        frame := modeFrame mode
        baud := baud
        pmux := pmux
        configured := true
        errs := 0
        pins := true }, respBit true)
  else (enterStopped c, respBit false)

/-- `FG.START` on a channel (R112): effective on a configured, stopped channel only. -/
def startChannel (c : Channel) (f : Bool) : Channel × Resp :=
  if c.configured ∧ c.mode = .stopped then
    (if f then { enterIdle c with pins := true } else enterIdle c, 0)
  else (c, 0)

/-- `FG.STOP` on a channel (R113): `f` is `release_pins`. -/
def stopChannel (c : Channel) (f : Bool) : Channel × Resp :=
  (if f then { enterStopped c with pins := false } else enterStopped c, 0)

/-- `FG.WRITE` on a channel once it is not held (R114). -/
def writeChannel (p : Params) (c : Channel) (data : Byte) : Channel × Resp :=
  if c.mode = .stopped then (c, respBit false)
  else
    match push p.nTx c.tx data with
    | (tx, false) => ({ c with tx := tx }, respBit false)
    | (tx, true) =>
      let c' : Channel := { c with tx := tx }
      let c' := if c'.mode = .idle then beginTransmit c' else c'
      ({ c' with dreie := true }, respBit true)

/-- `FG.READ` on a channel (R115). -/
def readChannel (p : Params) (c : Channel) : Except Fault (Channel × Resp) :=
  match pop p.nRx c.rx with
  | .error e => .error e
  | .ok (r, rx) => .ok ({ c with rx := rx }, respRead r)

/-- `FG.STATUS` on a channel (R119): the read is the clear. -/
def statusChannel (c : Channel) : Channel × Resp :=
  ({ c with
      errs := 0
      rx := { c.rx with ovf := false }
      tx := { c.tx with ovf := false } }, respStatus c)

/-- `FG.INIT` (R111). -/
def execFgInit (ch pmux : BitVec 4) (mode : BitVec 16) (baud : BitVec 32) (s : State) : Result :=
  foreground s ch fun c => respond s ch (initChannel s.par c pmux mode baud)

/-- `FG.START` (R112). -/
def execFgStart (ch : BitVec 4) (f : Bool) (s : State) : Result :=
  foreground s ch fun c => respond s ch (startChannel c f)

/-- `FG.STOP` (R113). -/
def execFgStop (ch : BitVec 4) (f : Bool) (s : State) : Result :=
  foreground s ch fun c => respond s ch (stopChannel c f)

/-- `FG.WRITE` (R114): the blocking form is held while its guard is false. -/
def execFgWrite (ch : BitVec 4) (nb : Bool) (data : Byte) (s : State) : Result :=
  foreground s ch fun c =>
    if nb || writeGuard s.par c then respond s ch (writeChannel s.par c data)
    else .next (s.hold (.write ch data))

/-- `FG.READ` (R115). -/
def execFgRead (ch : BitVec 4) (s : State) : Result :=
  foreground s ch fun c => orFault (readChannel s.par c) (respond s ch)

/-- `FG.AVAIL` (R116). -/
def execFgAvail (ch : BitVec 4) (s : State) : Result :=
  foreground s ch fun c => respond s ch (c, respCount (available c.rx))

/-- `FG.FREE` (R117). -/
def execFgFree (ch : BitVec 4) (s : State) : Result :=
  foreground s ch fun c => respond s ch (c, respCount (freeSpace s.par.nTx c.tx))

/-- `FG.FLUSH` (R118): held while its guard is false; it changes no channel. -/
def execFgFlush (ch : BitVec 4) (s : State) : Result :=
  foreground s ch fun c =>
    if flushGuard c then respond s ch (c, 0) else .next (s.hold (.flush ch))

/-- `FG.STATUS` (R119). -/
def execFgStatus (ch : BitVec 4) (s : State) : Result :=
  foreground s ch fun c => respond s ch (statusChannel c)

end Sys2Proof.Machine
end

