-- ==== Sys2Proof/Machine/Handlers.lean ====
section
/-! DEFINITION. The three interrupt handlers (41_interrupt_handlers.md): for each, what it does to the channel record once it
runs, and its meaning. `HANDLER_VARIANT` selects nothing (R95). -/

namespace Sys2Proof.Machine

/-- `ISR.DRE` on a channel (R91): one byte from the transmit buffer to the data register; the source is disabled when the
buffer is or becomes empty. -/
def dreChannel (p : Params) (c : Channel) : Except Fault Channel :=
  match pop p.nTx c.tx with
  | .error e => .error e
  | .ok (none, _) => .ok { c with dreie := false }
  | .ok (some b, tx) =>
    match txDataWrite { c with tx := tx } b with
    | .error e => .error e
    | .ok c' => .ok (if c'.tx.count = 0 then { c' with dreie := false } else c')

/-- `ISR.RXC` on a channel (R92): one frame from the receive data register to the receive buffer, its tag or-ed into `ERRS`
whether or not it is stored. -/
def rxcChannel (p : Params) (c : Channel) : Option Channel :=
  match rxDataRead c with
  | none => none
  | some (v, c') => some { c' with errs := errsAfter c'.errs v, rx := (push p.nRx c'.rx v).1 }

/-- `ISR.TXC` on a channel (R93): acknowledge; with nothing queued the transmission ends. -/
def txcChannel (c : Channel) : Channel :=
  let c' : Channel := { c with txc := false }
  if c'.tx.count = 0 ∧ c'.mode = .transmitting then endTransmit c' else c'

/-- `ISR.DRE` (R91). -/
def execIsrDre (ch : BitVec 4) (s : State) : Result :=
  dispatch s ch .dre fun c => orFault (dreChannel s.par c) (perform s ch)

/-- `ISR.RXC` (R92). A pending interrupt has a frame to read (R25), so the first case does not arise (U6). -/
def execIsrRxc (ch : BitVec 4) (s : State) : Result :=
  dispatch s ch .rxc fun c =>
    match rxcChannel s.par c with
    | none => .refused (.notPending .rxc)
    | some c' => perform s ch c'

/-- `ISR.TXC` (R93). -/
def execIsrTxc (ch : BitVec 4) (s : State) : Result :=
  dispatch s ch .txc fun c => perform s ch (txcChannel c)

end Sys2Proof.Machine
end

