-- ==== Sys2Proof/Machine/Peripheral.lean ====
section
/-! DEFINITION. The three moves of the reference peripheral (44_peripheral_events.md): for each, what it does to the channel
record, and its meaning. -/

namespace Sys2Proof.Machine

/-- `PER.LOAD` on a channel (R129); none where its precondition is false. -/
def loadChannel (c : Channel) : Option Channel :=
  match c.txdr, c.txsr with
  | some b, none => some { c with txsr := some b, txdr := none }
  | _, _ => none

/-- `PER.SHIFTDONE` on a channel (R130); none where its precondition is false. The echo is captured before `TXC` is set. -/
def shiftdoneChannel (depth : Nat) (c : Channel) (echo : Bool) (err : Tag) : Option Channel :=
  match c.txsr with
  | none => none
  | some b =>
    let c' : Channel := { c with wire := c.wire ++ [b], txsr := none }
    let c' := if echo then receiveFrame depth c' (mkFrame err b) else c'
    some (if c'.txdr.isNone then { c' with txc := true } else c')

/-- `PER.RXFRAME` (R128): always enabled. -/
def execPerRxframe (ch : BitVec 4) (err : Tag) (data : Byte) (s : State) : Result :=
  onChannel s ch fun c => perform s ch (receiveFrame s.par.hwRxDepth c (mkFrame err data))

/-- `PER.LOAD` (R129). -/
def execPerLoad (ch : BitVec 4) (s : State) : Result :=
  onChannel s ch fun c =>
    match loadChannel c with
    | none => .refused .loadNotEnabled
    | some c' => perform s ch c'

/-- `PER.SHIFTDONE` (R130). -/
def execPerShiftdone (ch : BitVec 4) (echo : Bool) (err : Tag) (s : State) : Result :=
  onChannel s ch fun c =>
    match shiftdoneChannel s.par.hwRxDepth c echo err with
    | none => .refused .shiftNotEnabled
    | some c' => perform s ch c'

end Sys2Proof.Machine
end

