-- ==== Sys2Proof/Machine/Dispatch.lean ====
section
/-! DEFINITION. exec: one arm per stimulus of R63, each one call of the stimulus's meaning. -/

namespace Sys2Proof.Machine

def exec (i : Instr) (s : State) : Host.Outcome State Fault Refusal :=
  match i with
  | .fgInit ch pmux mode baud => Sys2Proof.Machine.execFgInit ch pmux mode baud s
  | .fgStart ch f => Sys2Proof.Machine.execFgStart ch f s
  | .fgStop ch f => Sys2Proof.Machine.execFgStop ch f s
  | .fgWrite ch nb data => Sys2Proof.Machine.execFgWrite ch nb data s
  | .fgRead ch => Sys2Proof.Machine.execFgRead ch s
  | .fgAvail ch => Sys2Proof.Machine.execFgAvail ch s
  | .fgFree ch => Sys2Proof.Machine.execFgFree ch s
  | .fgFlush ch => Sys2Proof.Machine.execFgFlush ch s
  | .fgStatus ch => Sys2Proof.Machine.execFgStatus ch s
  | .isrDre ch => Sys2Proof.Machine.execIsrDre ch s
  | .isrRxc ch => Sys2Proof.Machine.execIsrRxc ch s
  | .isrTxc ch => Sys2Proof.Machine.execIsrTxc ch s
  | .perRxframe ch err data => Sys2Proof.Machine.execPerRxframe ch err data s
  | .perLoad ch => Sys2Proof.Machine.execPerLoad ch s
  | .perShiftdone ch echo err => Sys2Proof.Machine.execPerShiftdone ch echo err s

end Sys2Proof.Machine
end

