-- ==== Sys2Proof/Machine/Step.lean ====
section
/-! DEFINITION. step: the next instruction of the schedule, run in its state. -/

namespace Sys2Proof.Machine

/-- One step of the block (R6, R7). -/
def step (s : State) : Host.Outcome State Fault Refusal :=
  match takeTurn s with
  | .error r => .refused r
  | .ok (i, s') => exec i s'

/-- `s` with the stimulus word `w` of `nbits` bits (the rest zero) placed as the next one (assumptions 6 and 28). -/
def State.withFetchWord (s : State) (nbits w : Nat) : State :=
  placeStimulus s (BitVec.ofNat 64 (w % 2 ^ nbits))

end Sys2Proof.Machine
end

