-- ==== Sys2Proof/Machine/Assembly.lean ====
section
/-! DEFINITION. The assembler syntax (R66) and the pseudo-instructions (R67): from a line of text to the stimuli it stands
for. Where R66 leaves a point open (blanks, letter case, `_` in a number, a value too wide for its operand) see assumption 24. -/

namespace Sys2Proof.Machine

/-! ### Pseudo-instructions (R67) -/

/-- The pseudo-instructions of R67. -/
inductive Pseudo where
  | writeB (ch : BitVec 4) (data : Byte)
  | writeNb (ch : BitVec 4) (data : Byte)
  | writeS (ch : BitVec 4) (data : List Byte)
  | evRxc (ch : BitVec 4) (data : Byte) (err : Tag)
  | evTxc (ch : BitVec 4) (echo : Bool) (err : Tag)
  deriving DecidableEq, Repr

/-- The sequence a pseudo-instruction stands for (R67). -/
def expand : Pseudo → List Instr
  | .writeB ch data => [.fgWrite ch false data]
  | .writeNb ch data => [.fgWrite ch true data]
  | .writeS ch data => data.map (.fgWrite ch false)
  | .evRxc ch data err => [.perRxframe ch err data, .isrRxc ch]
  | .evTxc ch echo err => [.perShiftdone ch echo err, .isrTxc ch]

/-! ### Words of a line -/

/-- A word or a punctuation character of a line. -/
abbrev Token := List Char

/-- The word read so far, if any. -/
def flushWord (word : List Char) : List Token := if word.isEmpty then [] else [word]

/-- Cut a line into tokens: blanks separate, `,` `|` `[` `]` stand alone, `;` starts a comment. -/
def tokens : List Char → List Char → List Token
  | [], word => flushWord word
  | c :: cs, word =>
    if c = ';' then flushWord word
    else if c = ' ' ∨ c = '\t' then flushWord word ++ tokens cs []
    else if c = ',' ∨ c = '|' ∨ c = '[' ∨ c = ']' then flushWord word ++ [c] :: tokens cs []
    else tokens cs (word ++ [c])

/-- The value of a digit in the given base. `_` is no digit, so a number with a separator in it is outside the syntax: DESIGN
CHOICE (assumption 24), since R66 does not say whether 00_scope.md section 6's separator belongs to it. -/
def digitValue (base : Nat) (c : Char) : Option Nat :=
  let n := c.toNat
  let v := if 48 ≤ n ∧ n ≤ 57 then n - 48 else if 97 ≤ n ∧ n ≤ 102 then n - 87 else if 65 ≤ n ∧ n ≤ 70 then n - 55 else base
  if v < base then some v else none

/-- The value of a run of digits after the digits already read. -/
def digitsValue (base : Nat) : List Char → Nat → Option Nat
  | [], acc => some acc
  | c :: cs, acc =>
    match digitValue base c with
    | none => none
    | some v => digitsValue base cs (acc * base + v)

/-- A number: decimal, or hexadecimal after `0x` (R66), without separators (assumption 24). -/
def number : Token → Option Nat
  | [] => none
  | '0' :: 'x' :: d :: ds => digitsValue 16 (d :: ds) 0
  | d :: ds => digitsValue 10 (d :: ds) 0

/-- The symbols that may be written for `mode` (R66). -/
def modeSymbols : List (Token × Nat) := [("HD".toList, 0x8000), ("FD".toList, 0)]

/-- The symbols that may be written for `err` (R66). -/
def errSymbols : List (Token × Nat) := [("PE".toList, 1), ("FE".toList, 2), ("OVR".toList, 4)]

/-- A symbol or a number. -/
def atomValue (syms : List (Token × Nat)) (t : Token) : Option Nat :=
  match syms.lookup t with
  | some n => some n
  | none => number t

/-- One atom, or several or-ed together. -/
def orValue (syms : List (Token × Nat)) : List Token → Option Nat
  | [] => none
  | [t] => atomValue syms t
  | t :: bar :: rest =>
    if bar = ['|'] then
      match atomValue syms t, orValue syms rest with
      | some a, some b => some (a ||| b)
      | _, _ => none
    else none

/-- A value that fits the operand's width. -/
def fits (w : Nat) : Option Nat → Option (BitVec w)
  | none => none
  | some n => if n < 2 ^ w then some (BitVec.ofNat w n) else none

/-- A plain operand: one number. -/
def plain (w : Nat) : List Token → Option (BitVec w)
  | [t] => fits w (number t)
  | _ => none

/-- A one-bit operand. -/
def flag (ts : List Token) : Option Bool := (plain 1 ts).map (· == 1)

/-- The `mode` operand. -/
def modeOperand (ts : List Token) : Option (BitVec 16) := fits 16 (orValue modeSymbols ts)

/-- The `err` operand. -/
def errOperand (ts : List Token) : Option Tag := fits 3 (orValue errSymbols ts)

/-- Cut the tokens after the mnemonic at the commas. -/
def splitOperands : List Token → List Token → List (List Token)
  | [], cur => [cur]
  | t :: ts, cur => if t = [','] then cur :: splitOperands ts [] else splitOperands ts (cur ++ [t])

/-- The operands of a line: none at all, or those between commas. -/
def operandsOf (ts : List Token) : List (List Token) := if ts.isEmpty then [] else splitOperands ts []

/-- The bytes of a bracketed list, each a plain operand, after its opening bracket. -/
def byteList : List (List Token) → Option (List Byte)
  | [] => none
  | [[t, close]] => if close = [']'] then (plain 8 [t]).map ([·]) else none
  | ts :: rest =>
    match plain 8 ts, byteList rest with
    | some b, some bs => some (b :: bs)
    | _, _ => none

/-- The operands of `FG.WRITES` after the channel: `[b0, b1, ...]`. -/
def bracketed : List (List Token) → Option (List Byte)
  | (opening :: first) :: rest => if opening = ['['] then byteList (first :: rest) else none
  | _ => none

/-! ### One line (R66, R67) -/

/-- A stimulus whose only operand is the channel. -/
def lineZ (f : BitVec 4 → Instr) : List (List Token) → Option (List Instr)
  | [ch] => do some [f (← plain 4 ch)]
  | _ => none

/-- A stimulus with a channel and an optional flag. -/
def lineF (f : BitVec 4 → Bool → Instr) : List (List Token) → Option (List Instr)
  | [ch] => do some [f (← plain 4 ch) false]
  | [ch, b] => do some [f (← plain 4 ch) (← flag b)]
  | _ => none

/-- `FG.INIT ch, baud, mode [, pmux]`. -/
def lineInit : List (List Token) → Option (List Instr)
  | [ch, baud, mode] => do some [.fgInit (← plain 4 ch) 0 (← modeOperand mode) (← plain 32 baud)]
  | [ch, baud, mode, pmux] => do some [.fgInit (← plain 4 ch) (← plain 4 pmux) (← modeOperand mode) (← plain 32 baud)]
  | _ => none

/-- `FG.WRITE ch, data [, nb]`. -/
def lineWrite : List (List Token) → Option (List Instr)
  | [ch, data] => do some [.fgWrite (← plain 4 ch) false (← plain 8 data)]
  | [ch, data, nb] => do some [.fgWrite (← plain 4 ch) (← flag nb) (← plain 8 data)]
  | _ => none

/-- A line with a channel, a byte and an optional `err`: `PER.RXFRAME` and `EV.RXC`. -/
def lineFrame (f : BitVec 4 → Byte → Tag → List Instr) : List (List Token) → Option (List Instr)
  | [ch, data] => do some (f (← plain 4 ch) (← plain 8 data) 0)
  | [ch, data, err] => do some (f (← plain 4 ch) (← plain 8 data) (← errOperand err))
  | _ => none

/-- A line with a channel, an optional `echo` and an optional `err`: `PER.SHIFTDONE` and `EV.TXC`. -/
def lineEcho (f : BitVec 4 → Bool → Tag → List Instr) : List (List Token) → Option (List Instr)
  | [ch] => do some (f (← plain 4 ch) false 0)
  | [ch, echo] => do some (f (← plain 4 ch) (← flag echo) 0)
  | [ch, echo, err] => do some (f (← plain 4 ch) (← flag echo) (← errOperand err))
  | _ => none

/-- `FG.WRITEB ch, data` and `FG.WRITENB ch, data`. -/
def lineByte (f : BitVec 4 → Byte → Pseudo) : List (List Token) → Option (List Instr)
  | [ch, data] => do some (expand (f (← plain 4 ch) (← plain 8 data)))
  | _ => none

/-- `FG.WRITES ch, [b0, b1, ...]`. -/
def lineWrites : List (List Token) → Option (List Instr)
  | ch :: rest => do some (expand (.writeS (← plain 4 ch) (← bracketed rest)))
  | [] => none

/-- What the operands of a line with the given first word stand for. -/
def statement (m : Token) (ops : List (List Token)) : Option (List Instr) :=
  if m = "FG.INIT".toList then lineInit ops
  else if m = "FG.START".toList then lineF .fgStart ops
  else if m = "FG.STOP".toList then lineF .fgStop ops
  else if m = "FG.WRITE".toList then lineWrite ops
  else if m = "FG.READ".toList then lineZ .fgRead ops
  else if m = "FG.AVAIL".toList then lineZ .fgAvail ops
  else if m = "FG.FREE".toList then lineZ .fgFree ops
  else if m = "FG.FLUSH".toList then lineZ .fgFlush ops
  else if m = "FG.STATUS".toList then lineZ .fgStatus ops
  else if m = "ISR.DRE".toList then lineZ .isrDre ops
  else if m = "ISR.RXC".toList then lineZ .isrRxc ops
  else if m = "ISR.TXC".toList then lineZ .isrTxc ops
  else if m = "PER.RXFRAME".toList then lineFrame (fun ch data err => [.perRxframe ch err data]) ops
  else if m = "PER.LOAD".toList then lineZ .perLoad ops
  else if m = "PER.SHIFTDONE".toList then lineEcho (fun ch echo err => [.perShiftdone ch echo err]) ops
  else if m = "FG.WRITEB".toList then lineByte .writeB ops
  else if m = "FG.WRITENB".toList then lineByte .writeNb ops
  else if m = "FG.WRITES".toList then lineWrites ops
  else if m = "EV.RXC".toList then lineFrame (fun ch data err => expand (.evRxc ch data err)) ops
  else if m = "EV.TXC".toList then lineEcho (fun ch echo err => expand (.evTxc ch echo err)) ops
  else none

/-- The stimuli a line stands for: none at all for a blank or comment line; `none` for a line outside the syntax. -/
def assembleLine (line : List Char) : Option (List Instr) :=
  match tokens line [] with
  | [] => some []
  | m :: ops => statement m (operandsOf ops)

/-- The stimulus words a program text stands for, one line after the other (R66). -/
def assemble : List (List Char) → Option (List Stimulus)
  | [] => some []
  | line :: lines => do some ((← assembleLine line).map encode ++ (← assemble lines))

end Sys2Proof.Machine
end

