-- ==== Sys2Proof/Safety.lean ====
section
/-! DEFINITION. The terms claims are stated in: the invariants of R31, quiescence (R164), and the bytes a channel has under
way (R125, R133). -/

namespace Sys2Proof.Machine

/-- The buffer invariant (R12) of a buffer of capacity `n`, with the canonical form of its storage and a value in every
queued slot (R50). -/
structure Buf.Inv {w : Nat} (n : Nat) (b : Buf w) : Prop where
  countLe : b.count ≤ n
  headLt : b.head < n
  tailLt : b.tail < n
  /-- `(head - tail) mod N = count mod N`, with the subtraction moved to the other side. -/
  congruent : b.head = (b.tail + b.count) % n
  memory : b.storage.wf n = true
  written : ∀ j < b.count, (b.storage.read ((b.tail + j) % n)).isSome = true

/-- The invariants I1 to I9 of R31 of a channel, the depth of `RXHOLD` (R24), and contract P3 (R125, R133): `TXC` is set only
when nothing waits and nothing is being shifted out. -/
structure Channel.Inv (p : Params) (c : Channel) : Prop where
  rx : c.rx.Inv p.nRx
  tx : c.tx.Inv p.nTx
  stopped : c.mode = .stopped → c.dreie = false ∧ c.rxcie = false ∧ c.txcie = false
  txcie : c.txcie = true ↔ c.mode = .transmitting
  rxcie : c.rxcie = true ↔ c.mode = .idle ∨ (c.mode = .transmitting ∧ c.hd = false)
  skip : c.skip = true ↔ c.hd = true ∧ c.mode = .transmitting
  idleEmpty : c.mode = .idle → c.tx.count = 0
  dreie : c.mode ≠ .stopped → (c.dreie = true ↔ 0 < c.tx.count)
  configured : c.mode ≠ .stopped → c.configured = true
  depth : c.rxhold.length ≤ p.hwRxDepth
  txc : c.txc = true → c.txdr = none ∧ c.txsr = none

/-- The channel a held command waits on. -/
def heldCh : HeldCmd → BitVec 4
  | .write ch _ => ch
  | .flush ch => ch

/-- The channel of a held command is compiled in and is not stopped (R110, R114, R118: a stopped channel holds nothing). -/
def HeldSound (s : State) (cmd : HeldCmd) : Prop := ∃ c, s.chan? (heldCh cmd) = some c ∧ c.mode ≠ .stopped

/-- The invariant of the whole block: admissible parameters, at most six channels (R4, R10), every channel's invariant (R31),
and a held command that can be performed. -/
structure State.Inv (s : State) : Prop where
  params : s.par.Admissible
  channels : s.chans.length ≤ maxChannels
  chan : ∀ c ∈ s.chans, c.Inv s.par
  held : ∀ cmd, s.held = some cmd → HeldSound s cmd

/-- The guard of a held command on its channel, as R114 and R118 write it. -/
def HeldGuard (p : Params) (c : Channel) : HeldCmd → Prop
  | .write _ _ => c.mode = .stopped ∨ c.tx.count < p.nTx
  | .flush _ => c.mode = .stopped ∨ (c.tx.count = 0 ∧ c.mode ≠ .transmitting)

/-- No held command can be performed now: none is outstanding, or its guard is false (R7). -/
def NotReady (s : State) : Prop :=
  ∀ cmd, s.held = some cmd → ∀ c, s.chan? (heldCh cmd) = some c → ¬ HeldGuard s.par c cmd

/-- Nothing but channel `ch`, the outstanding command and the response differs (R6, R148). -/
def SameOutside (ch : BitVec 4) (s t : State) : Prop :=
  t.par = s.par ∧ t.stimuli = s.stimuli ∧ t.chans.length = s.chans.length ∧
    ∀ k, k ≠ ch.toNat → t.chans[k]? = s.chans[k]?

/-- Two outcomes agree as far as channel `ch`, the outstanding command and the response go. -/
def AgreeOn (ch : BitVec 4) : Result → Result → Prop
  | .next s, .next t => s.chan? ch = t.chan? ch ∧ s.held = t.held ∧ s.resp = t.resp
  | .fault e, .fault f => e = f
  | .refused e, .refused f => e = f
  | _, _ => False

/-- The state in a build with the other choice of handlers (R95). -/
def withVariant (v : HandlerVariant) (s : State) : State := { s with par := { s.par with variant := v } }

/-- Apply a function to the next state of an outcome. -/
def mapNext (f : State → State) : Result → Result
  | .next s => .next (f s)
  | .fault e => .fault e
  | .refused r => .refused r

/-- The peripheral-side state (R24) and the ghost `WIRE` (R26). -/
def peripheralSide (c : Channel) : List Frame × Option Byte × Option Byte × Bool × List Byte :=
  (c.rxhold, c.txdr, c.txsr, c.txc, c.wire)

/-- A call of a buffer primitive (R85). -/
inductive BufOp (w : Nat) where
  | push (v : BitVec w)
  | pop
  deriving DecidableEq, Repr

/-- Apply a sequence of calls to a buffer: the elements stored, the elements returned, both in order, and the buffer left
(R85). -/
def runBuf {w : Nat} (n : Nat) : List (BufOp w) → Buf w → Except Fault (List (BitVec w) × List (BitVec w) × Buf w)
  | [], b => .ok ([], [], b)
  | .push v :: ops, b =>
    match runBuf n ops (push n b v).1 with
    | .error e => .error e
    | .ok (stored, out, b') => .ok (if (push n b v).2 then v :: stored else stored, out, b')
  | .pop :: ops, b =>
    match pop n b with
    | .error e => .error e
    | .ok (r, b1) =>
      match runBuf n ops b1 with
      | .error e => .error e
      | .ok (stored, out, b') => .ok (stored, r.toList ++ out, b')

/-- The part of quiescence that a channel's record shows (R164): no interrupt pending and no `PER.LOAD` or `PER.SHIFTDONE`
enabled. -/
def Channel.Quiet (c : Channel) : Prop :=
  (∀ src, pending c src = false) ∧ c.txdr = none ∧ c.txsr = none

/-- Quiescence of channel `ch` (R164): no interrupt of it pending, `PER.LOAD` and `PER.SHIFTDONE` not enabled on it, and no
foreground command held, on this channel or another, since the port is one (R8). -/
def State.Quiescent (s : State) (ch : BitVec 4) : Prop := s.held = none ∧ ∃ c, s.chan? ch = some c ∧ c.Quiet

/-- A channel that has carried no traffic: no `FG.INIT` on it has succeeded (R162). Its buffers are empty, no flag is set, no
source is enabled, its pins are not held and the transmitter has no byte; frames may be held, and latches may hold anything. -/
structure Channel.Unstarted (c : Channel) : Prop where
  configured : c.configured = false
  mode : c.mode = .stopped
  enables : c.dreie = false ∧ c.rxcie = false ∧ c.txcie = false
  counts : c.rx.count = 0 ∧ c.tx.count = 0
  flags : c.rx.ovf = false ∧ c.tx.ovf = false ∧ c.errs = 0 ∧ c.skip = false
  pins : c.pins = false
  transmitter : c.txdr = none ∧ c.txsr = none

/-- The bytes a channel has put on the wire, is shifting, has waiting in the data register and has queued, oldest first:
the order in which they leave (R125 P2, R133). -/
def Channel.outgoing (p : Params) (c : Channel) : List Byte :=
  c.wire ++ c.txsr.toList ++ c.txdr.toList ++ queued p.nTx c.tx

/-- The bytes already handed to the peripheral, which a stop does not call back (R104). -/
def Channel.handedOver (c : Channel) : List Byte := c.wire ++ c.txsr.toList ++ c.txdr.toList

end Sys2Proof.Machine
end

