-- ==== Sys2Proof/Certificates/Slice0/Obligations.lean ====
section
/-! DEFINITION. The statements for the provers, from the numbered rules of the spec. A statement over a state holds for every
build, since the parameters are a field of the state (assumption 1), and for every schedule (assumption 6). -/

open Sys2Proof Sys2Proof.Machine

/-! ### The stimulus word (30_encoding.md) -/

/-- R60 to R63: no operand bit is dropped, whatever the number of channels. -/
def Obligations.DecodeOfEncodeGivesTheInstruction : Prop :=
  ∀ (nch : Nat) (i : Instr), i.WellFormed nch → decode nch (encode i) = .ok i

/-- R64, R68: a legal word has one reading, and only that instruction's word is read so. -/
def Obligations.EncodeOfDecodeGivesTheWord : Prop :=
  ∀ (nch : Nat) (w : Stimulus) (i : Instr), decode nch w = .ok i → encode i = w ∧ i.WellFormed nch

/-- R63: a word is the stimulus of a row exactly when `W & mask = match` (and its channel exists, R64 (d)). -/
def Obligations.DecoderAgreesWithTheOpcodeMap : Prop :=
  ∀ (nch : Nat) (w : Stimulus) (r : Row), r ∈ opcodeTable →
    ((r.Matches w ∧ (wordCh w).toNat < nch) ↔ ∃ i, decode nch w = .ok i ∧ i.mnemonic = r.mnemonic)

/-- R64: the four clauses in their order, a legal word in every other case, and a refused word stops the step with nothing
changed. The clause about step rests on the model's schedule in State, on its place for a held command and on its outcome for
a refused stimulus (assumptions 6, 8 and 11). -/
def Obligations.IllegalWordsAreRefusedByTheFirstClause : Prop :=
  (∀ (nch : Nat) (w : Stimulus),
    (decode nch w = .error .badClass ↔ wordCls w ≠ 1 ∧ wordCls w ≠ 2 ∧ wordCls w ≠ 3) ∧
    (decode nch w = .error .badOp ↔
      (wordCls w = 1 ∧ 9 ≤ (wordOp w).toNat) ∨ ((wordCls w = 2 ∨ wordCls w = 3) ∧ 3 ≤ (wordOp w).toNat)) ∧
    (decode nch w = .error .reservedBits ↔
      ((wordCls w = 1 ∧ (wordOp w).toNat < 9) ∨ ((wordCls w = 2 ∨ wordCls w = 3) ∧ (wordOp w).toNat < 3)) ∧
        ∀ r ∈ opcodeTable, ¬ r.Matches w) ∧
    (decode nch w = .error .absentChannel ↔ (∃ r ∈ opcodeTable, r.Matches w) ∧ nch ≤ (wordCh w).toNat) ∧
    ((∃ i, decode nch w = .ok i) ↔ (∃ r ∈ opcodeTable, r.Matches w) ∧ (wordCh w).toNat < nch)) ∧
  (∀ (s : State) (w : Stimulus) (rest : List Stimulus) (e : DecodeError), NotReady s → s.stimuli = w :: rest →
    decode s.chans.length w = .error e → step s = .refused (.illegalWord e))

/-- R69: words of the worked encodings and what they decode to, and lines of R66 and R67 and the words they stand for
(that blanks separate the words of a line is the model's choice, assumption 24). -/
def Obligations.WorkedEncodingsDecodeAndAssemble : Prop :=
  decode 6 0x1000800000002580 = .ok (.fgInit 0 0 0x8000 9600) ∧
  decode 6 0x1025800300002580 = .ok (.fgInit 2 5 0x8003 9600) ∧
  decode 6 0x105FFFFFFFFFFFFF = .ok (.fgInit 5 15 0xFFFF 0xFFFFFFFF) ∧
  decode 6 0x13300000000001FF = .ok (.fgWrite 3 true 0xFF) ∧
  decode 6 0x1450000000000000 = .ok (.fgRead 5) ∧
  decode 6 0x2000000000000000 = .ok (.isrDre 0) ∧
  decode 6 0x30000000000002A4 = .ok (.perRxframe 0 2 0xA4) ∧
  decode 6 0x3200000000010100 = .ok (.perShiftdone 0 true 1) ∧
  decode 6 0x1300000000000241 = .error .reservedBits ∧
  decode 6 0x1360000000000041 = .error .absentChannel ∧
  assemble ["FG.INIT 2, 9600, HD|3, 5".toList, "PER.RXFRAME 0, 0xA4, FE".toList, "FG.WRITES 0, [0x41, 0x42]".toList] =
    some [0x1025800300002580, 0x30000000000002A4, 0x1300000000000041, 0x1300000000000042]

/-- R42, R68: stored in bytes a word is little-endian, and the decoder reads exactly eight bytes of a stream. -/
def Obligations.BytesOfAWordDecodeAsTheWord : Prop :=
  ∀ (nch : Nat) (w : Stimulus) (rest : List Byte),
    decodeBytes nch (wordBytes 8 w.toNat ++ rest) = (decode nch w).map fun i => (i, rest)

/-! ### The step (00_scope.md) -/

/-- R6: the next step is the execution of the next stimulus, unless a held command can be performed. That the
schedule of stimuli stands in State is the model's choice (assumption 6). -/
def Obligations.StepRunsTheDecodedStimulus : Prop :=
  ∀ (s : State) (w : Stimulus) (rest : List Stimulus) (i : Instr), NotReady s → s.stimuli = w :: rest →
    decode s.chans.length w = .ok i → step s = exec i { s with stimuli := rest }

/-- R7: a held command is performed at the first point where its guard is true, and returns its response; no stimulus is
taken by that step. That this point lies before the next stimulus is the model's reading (assumption 8). -/
def Obligations.HeldCommandIsPerformedOnceItsGuardIsTrue : Prop :=
  ∀ (s : State) (cmd : HeldCmd) (c : Channel), s.held = some cmd → s.chan? (heldCh cmd) = some c →
    HeldGuard s.par c cmd →
    step s = exec (heldInstr cmd) { s with held := none } ∧
    ∃ t, step s = .next t ∧ t.held = none ∧ t.resp.isSome = true ∧ t.stimuli = s.stimuli

/-- R8: while a command is held no other foreground command can be issued, on any channel. That the model refuses
one is its own reading (assumption 9). -/
def Obligations.ForegroundIsRefusedWhileACommandIsHeld : Prop :=
  ∀ (s : State) (i : Instr) (c : Channel), i.isForeground = true → s.chan? i.ch = some c → s.held ≠ none →
    exec i s = .refused .portBusy

/-- R10: a stimulus that names a channel at or above `NCH` is refused; that exec refuses it beside the decoder is the
model's choice (assumption 16). -/
def Obligations.AbsentChannelIsRefused : Prop :=
  ∀ (s : State) (i : Instr), s.chans.length ≤ i.ch.toNat → exec i s = .refused .absentChannel

/-! ### Reset (10_state.md section 7, 70_reset_and_hazards.md section 1) -/

/-- R29: the reset values, in every build and whatever the unspecified latches hold. -/
def Obligations.ResetLeavesTheTableOfValues : Prop :=
  ∀ (p : Params) (ls : List Latches) (k : Nat) (l : Latches), ls[k]? = some l →
    (State.resetOf p ls).held = none ∧ (State.resetOf p ls).chans.length = ls.length ∧
    ∃ c, (State.resetOf p ls).chans[k]? = some c ∧
      c.mode = .stopped ∧ c.mode.code = 0 ∧ c.hd = false ∧ c.skip = false ∧
      c.dreie = false ∧ c.rxcie = false ∧ c.txcie = false ∧ c.errs = 0b000 ∧
      (c.rx.head = 0 ∧ c.rx.tail = 0 ∧ c.rx.count = 0 ∧ c.rx.ovf = false) ∧
      (c.tx.head = 0 ∧ c.tx.tail = 0 ∧ c.tx.count = 0 ∧ c.tx.ovf = false) ∧
      (∀ j, c.rx.storage.read j = none ∧ c.tx.storage.read j = none) ∧
      c.configured = false ∧ (c.baud = l.baud ∧ c.frame = l.frame ∧ c.pmux = l.pmux) ∧ c.pins = false ∧
      c.rxhold = [] ∧ c.txdr = none ∧ c.txsr = none ∧ c.txc = false ∧ c.wire = []

/-- R29, R31: the invariant holds at reset in every admissible build. -/
def Obligations.ResetMeetsTheInvariant : Prop :=
  ∀ (p : Params) (ls : List Latches), p.Admissible → ls.length ≤ maxChannels → (State.resetOf p ls).Inv

/-- R162, from reset until the first `FG.INIT` of a channel succeeds: every channel is unstarted at reset; on an unstarted
channel every other command is performed at once and changes nothing but the response, a failed `FG.INIT` too, no handler,
`PER.LOAD` or `PER.SHIFTDONE` can run, and frames pile up to the depth; and a channel stays unstarted, whatever stimulus is
performed on it or on another, unless that is an `FG.INIT` of it that answers `OK`. -/
def Obligations.BeforeInitNothingChanges : Prop :=
  (∀ (p : Params) (ls : List Latches) (c : Channel), c ∈ (State.resetOf p ls).chans → c.Unstarted) ∧
  (∀ (s : State) (i : Instr) (c : Channel), s.chan? i.ch = some c → c.Unstarted →
    (i.isForeground = true → s.held = none) →
    match i with
    | .fgInit _ _ mode baud =>
      s.par.cfgSupported baud (mode.extractLsb' 0 15) = false → exec i s = .next (s.put i.ch c (some 0x0000))
    | .fgFree _ => exec i s = .next (s.put i.ch c (some (BitVec.ofNat 16 s.par.nTx)))
    | .isrDre _ => exec i s = .refused (.notPending .dre)
    | .isrRxc _ => exec i s = .refused (.notPending .rxc)
    | .isrTxc _ => exec i s = .refused (.notPending .txc)
    | .perRxframe _ err data =>
      exec i s =
        .next (s.put i.ch
          { c with
            rxhold :=
              if c.rxhold.length < s.par.hwRxDepth then c.rxhold ++ [(err ++ data : BitVec (3 + 8))] else c.rxhold } none)
    | .perLoad _ => exec i s = .refused .loadNotEnabled
    | .perShiftdone .. => exec i s = .refused .shiftNotEnabled
    | _ => exec i s = .next (s.put i.ch c (some 0x0000))) ∧
  (∀ (s t : State) (i : Instr) (k : Nat) (c : Channel), s.chans[k]? = some c → c.Unstarted → exec i s = .next t →
    (∃ c', t.chans[k]? = some c' ∧ c'.Unstarted) ∨
      ∃ pmux mode baud, i = .fgInit i.ch pmux mode baud ∧ i.ch.toNat = k ∧ t.resp = some 0x0001)

/-! ### The foreground commands (43_foreground_ops.md): where each completes, with what result -/

/-- R111: what a successful and a failed `FG.INIT` leave. -/
def Obligations.FgInitConfiguresOrFails : Prop :=
  ∀ (s : State) (ch pmux : BitVec 4) (mode : BitVec 16) (baud : BitVec 32) (c : Channel),
    s.chan? ch = some c → s.held = none →
    (s.par.cfgSupported baud (mode.extractLsb' 0 15) = true →
      exec (.fgInit ch pmux mode baud) s =
        .next (s.put ch
          { c with
            rx := { c.rx with head := 0, tail := 0, count := 0, ovf := false }
            tx := { c.tx with head := 0, tail := 0, count := 0, ovf := false }
            mode := .idle, hd := mode.getLsbD 15, skip := false, errs := 0b000
            dreie := false, rxcie := true, txcie := false
            baud := baud, frame := mode.extractLsb' 0 15, pmux := pmux, configured := true, pins := true }
          (some 0x0001))) ∧
    (s.par.cfgSupported baud (mode.extractLsb' 0 15) = false →
      exec (.fgInit ch pmux mode baud) s =
        .next (s.put ch
          { c with mode := .stopped, skip := false, dreie := false, rxcie := false, txcie := false }
          (some 0x0000)))

/-- R112: effective on a configured, stopped channel; a no-op on every other. -/
def Obligations.FgStartStartsAConfiguredStoppedChannel : Prop :=
  ∀ (s : State) (ch : BitVec 4) (f : Bool) (c : Channel), s.chan? ch = some c → s.held = none →
    (c.configured = true → c.mode = .stopped →
      exec (.fgStart ch f) s =
        .next (s.put ch
          { c with
            rx := { c.rx with head := 0, tail := 0, count := 0, ovf := false }
            tx := { c.tx with head := 0, tail := 0, count := 0, ovf := false }
            mode := .idle, skip := false, dreie := false, rxcie := true, txcie := false
            pins := if f = true then true else c.pins }
          (some 0x0000))) ∧
    (c.configured = false ∨ c.mode ≠ .stopped → exec (.fgStart ch f) s = .next (s.put ch c (some 0x0000)))

/-- R113: in any mode, the three enables and `SKIP` cleared, `Stopped`, pins released if asked; nothing else. -/
def Obligations.FgStopStopsTheChannel : Prop :=
  ∀ (s : State) (ch : BitVec 4) (f : Bool) (c : Channel), s.chan? ch = some c → s.held = none →
    exec (.fgStop ch f) s =
      .next (s.put ch
        { c with
          mode := .stopped, skip := false, dreie := false, rxcie := false, txcie := false
          pins := if f = true then false else c.pins }
        (some 0x0000))

/-- R114, R80, R102: an accepted write, blocking or not, from `Idle` (the transition T2) and while `Transmitting`. -/
def Obligations.FgWriteEnqueuesTheByte : Prop :=
  ∀ (s : State) (ch : BitVec 4) (nb : Bool) (data : Byte) (c : Channel), s.chan? ch = some c → s.held = none →
    c.mode ≠ .stopped → c.tx.count < s.par.nTx →
    exec (.fgWrite ch nb data) s =
      .next (s.put ch
        { c with
          tx := { c.tx with
            storage := c.tx.storage.write c.tx.head data
            head := (c.tx.head + 1) % s.par.nTx
            count := c.tx.count + 1 }
          mode := .transmitting
          dreie := true
          txcie := if c.mode = .idle then true else c.txcie
          rxcie := if c.mode = .idle ∧ c.hd = true then false else c.rxcie
          skip := if c.mode = .idle ∧ c.hd = true then true else c.skip }
        (some 0x0001))

/-- R114 corner case 3: a write while stopped is a no-op, whatever the buffer holds, and is not held. -/
def Obligations.FgWriteWhileStoppedIsANoOp : Prop :=
  ∀ (s : State) (ch : BitVec 4) (nb : Bool) (data : Byte) (c : Channel), s.chan? ch = some c → s.held = none →
    c.mode = .stopped → exec (.fgWrite ch nb data) s = .next (s.put ch c (some 0x0000))

/-- R114, R86: on a full buffer the non-blocking write is refused with `TX.ovf` set, and the blocking write is held with
nothing changed. Held is a next state by the model's choice (assumption 7). -/
def Obligations.FgWriteOnAFullBufferIsRefusedOrHeld : Prop :=
  ∀ (s : State) (ch : BitVec 4) (data : Byte) (c : Channel), s.chan? ch = some c → s.held = none →
    c.mode ≠ .stopped → c.tx.count = s.par.nTx →
    exec (.fgWrite ch true data) s = .next (s.put ch { c with tx := { c.tx with ovf := true } } (some 0x0000)) ∧
    exec (.fgWrite ch false data) s = .next { s with held := some (.write ch data), resp := none }

/-- R115, R65: the oldest element with its tag, or `0x0000` from an empty buffer. -/
def Obligations.FgReadDequeuesTheOldestElement : Prop :=
  ∀ (s : State) (ch : BitVec 4) (c : Channel), s.chan? ch = some c → s.held = none →
    (c.rx.count = 0 → exec (.fgRead ch) s = .next (s.put ch c (some 0x0000))) ∧
    (∀ v, c.rx.count ≠ 0 → c.rx.storage.read c.rx.tail = some v →
      ∃ r : Resp, exec (.fgRead ch) s =
          .next (s.put ch
            { c with rx := { c.rx with tail := (c.rx.tail + 1) % s.par.nRx, count := c.rx.count - 1 } } (some r)) ∧
        r.getLsbD 15 = true ∧ r.extractLsb' 11 4 = 0 ∧ r.extractLsb' 8 3 = v.extractLsb' 8 3 ∧
        r.extractLsb' 0 8 = v.extractLsb' 0 8)

/-- R116, R117, R65: the two queries answer the counts and change nothing. -/
def Obligations.FgAvailAndFgFreeAnswerTheCounts : Prop :=
  ∀ (s : State) (ch : BitVec 4) (c : Channel), s.chan? ch = some c → s.held = none →
    exec (.fgAvail ch) s = .next (s.put ch c (some (BitVec.ofNat 16 c.rx.count))) ∧
    exec (.fgFree ch) s = .next (s.put ch c (some (BitVec.ofNat 16 (s.par.nTx - c.tx.count))))

/-- R65, R83: in a state of the invariant the answers are the counts themselves, since a count fits in 16 bits. -/
def Obligations.QueryAnswersAreExact : Prop :=
  ∀ (s : State) (ch : BitVec 4) (c : Channel), s.Inv → s.chan? ch = some c → s.held = none →
    ∃ t u ra rf, exec (.fgAvail ch) s = .next t ∧ t.resp = some ra ∧ ra.toNat = c.rx.count ∧ ra.toNat ≤ s.par.nRx ∧
      exec (.fgFree ch) s = .next u ∧ u.resp = some rf ∧ rf.toNat + c.tx.count = s.par.nTx

/-- R118: performed at once when stopped, or when empty and not transmitting; held otherwise; no channel changes. Held is a
next state by the model's choice (assumption 7). That it returns at once on an idle channel also while a byte handed over
before a stop and start is in `TXDR` or `TXSR`, as the guard says and corner case 6 does not, is the model's reading
(assumption 25). -/
def Obligations.FgFlushReturnsOrIsHeld : Prop :=
  ∀ (s : State) (ch : BitVec 4) (c : Channel), s.chan? ch = some c → s.held = none →
    (c.mode = .stopped ∨ (c.tx.count = 0 ∧ c.mode ≠ .transmitting) →
      exec (.fgFlush ch) s = .next (s.put ch c (some 0x0000))) ∧
    (¬ (c.mode = .stopped ∨ (c.tx.count = 0 ∧ c.mode ≠ .transmitting)) →
      exec (.fgFlush ch) s = .next { s with held := some (.flush ch), resp := none })

/-- R119, R65: the read is the clear. -/
def Obligations.FgStatusReadsAndClearsTheStickyFlags : Prop :=
  ∀ (s : State) (ch : BitVec 4) (c : Channel), s.chan? ch = some c → s.held = none →
    ∃ r : Resp, exec (.fgStatus ch) s =
        .next (s.put ch
          { c with errs := 0b000, rx := { c.rx with ovf := false }, tx := { c.tx with ovf := false } } (some r)) ∧
      r.getLsbD 0 = c.errs.getLsbD 0 ∧ r.getLsbD 1 = c.errs.getLsbD 1 ∧ r.getLsbD 2 = c.errs.getLsbD 2 ∧
      r.getLsbD 3 = c.rx.ovf ∧ r.getLsbD 4 = c.tx.ovf ∧ r.extractLsb' 5 11 = 0

/-! ### The handlers (41_interrupt_handlers.md, 60_exceptions.md) -/

/-- R91, R126: one byte moves; the source is disabled when the buffer is or becomes empty. -/
def Obligations.IsrDreMovesOneByte : Prop :=
  ∀ (s : State) (ch : BitVec 4) (c : Channel), s.chan? ch = some c → c.dreie = true → c.txdr = none →
    (c.tx.count = 0 → exec (.isrDre ch) s = .next (s.put ch { c with dreie := false } none)) ∧
    (∀ b, c.tx.count ≠ 0 → c.tx.storage.read c.tx.tail = some b →
      exec (.isrDre ch) s =
        .next (s.put ch
          { c with
            tx := { c.tx with tail := (c.tx.tail + 1) % s.par.nTx, count := c.tx.count - 1 }
            txdr := some b
            txc := false
            dreie := if c.tx.count = 1 then false else true } none))

/-- R92, R127, R80: one frame moves; its tag is or-ed into `ERRS` whether or not it is stored. -/
def Obligations.IsrRxcTakesOneFrame : Prop :=
  ∀ (s : State) (ch : BitVec 4) (c : Channel) (v : Frame) (rest : List Frame), s.chan? ch = some c → c.rxcie = true →
    c.rxhold = v :: rest →
    exec (.isrRxc ch) s =
      .next (s.put ch
        { c with
          rxhold := rest
          errs := c.errs ||| v.extractLsb' 8 3
          rx :=
            if c.rx.count = s.par.nRx then { c.rx with ovf := true }
            else { c.rx with
              storage := c.rx.storage.write c.rx.head v
              head := (c.rx.head + 1) % s.par.nRx
              count := c.rx.count + 1 } } none)

/-- R93, R103: acknowledge; with nothing queued the transmission ends, and on a half-duplex channel everything held is
discarded and reception re-armed. -/
def Obligations.IsrTxcEndsTheTransmission : Prop :=
  ∀ (s : State) (ch : BitVec 4) (c : Channel), s.chan? ch = some c → c.txcie = true → c.txc = true →
    (c.tx.count = 0 → c.mode = .transmitting → c.hd = true → c.skip = true →
      exec (.isrTxc ch) s =
        .next (s.put ch
          { c with txc := false, rxhold := [], skip := false, rxcie := true, txcie := false, mode := .idle } none)) ∧
    (c.tx.count = 0 → c.mode = .transmitting → ¬ (c.hd = true ∧ c.skip = true) →
      exec (.isrTxc ch) s = .next (s.put ch { c with txc := false, txcie := false, mode := .idle } none)) ∧
    (¬ (c.tx.count = 0 ∧ c.mode = .transmitting) →
      exec (.isrTxc ch) s = .next (s.put ch { c with txc := false } none))

/-- R90, R139: a handler whose interrupt is not pending is refused. -/
def Obligations.HandlersAreRefusedWhenNotPending : Prop :=
  ∀ (s : State) (ch : BitVec 4) (c : Channel), s.chan? ch = some c →
    (c.dreie = false ∨ c.txdr ≠ none → exec (.isrDre ch) s = .refused (.notPending .dre)) ∧
    (c.rxcie = false ∨ c.rxhold = [] → exec (.isrRxc ch) s = .refused (.notPending .rxc)) ∧
    (c.txcie = false ∨ c.txc = false → exec (.isrTxc ch) s = .refused (.notPending .txc))

/-- R139: in a state of the invariant a handler is an enabled step exactly when its interrupt is pending. -/
def Obligations.HandlerRunsExactlyWhenPending : Prop :=
  ∀ (s : State) (ch : BitVec 4) (c : Channel), s.Inv → s.chan? ch = some c →
    ((∃ t, exec (.isrDre ch) s = .next t) ↔ pending c .dre = true) ∧
    ((∃ t, exec (.isrRxc ch) s = .next t) ↔ pending c .rxc = true) ∧
    ((∃ t, exec (.isrTxc ch) s = .next t) ↔ pending c .txc = true)

/-- R91 corner case 2, R166: after its handler has run `DRE` is not pending, so there is no interrupt storm. -/
def Obligations.DreIsNotPendingAfterItsHandler : Prop :=
  ∀ (s t : State) (ch : BitVec 4) (c : Channel), exec (.isrDre ch) s = .next t → t.chan? ch = some c →
    pending c .dre = false

/-! ### The peripheral's moves (44_peripheral_events.md) -/

/-- R128: always enabled; held if there is room, lost without a mark otherwise. -/
def Obligations.PerRxframeHoldsOrLosesTheFrame : Prop :=
  ∀ (s : State) (ch : BitVec 4) (err : Tag) (data : Byte) (c : Channel), s.chan? ch = some c →
    (c.rxhold.length < s.par.hwRxDepth →
      exec (.perRxframe ch err data) s =
        .next (s.put ch { c with rxhold := c.rxhold ++ [(err ++ data : BitVec (3 + 8))] } none)) ∧
    (s.par.hwRxDepth ≤ c.rxhold.length → exec (.perRxframe ch err data) s = .next (s.put ch c none))

/-- R129: the shifter takes the byte from the data register; without a byte, or with the shifter busy, refused. -/
def Obligations.PerLoadMovesTheByteToTheShifter : Prop :=
  ∀ (s : State) (ch : BitVec 4) (c : Channel), s.chan? ch = some c →
    (∀ b, c.txdr = some b → c.txsr = none →
      exec (.perLoad ch) s = .next (s.put ch { c with txsr := some b, txdr := none } none)) ∧
    (c.txdr = none ∨ c.txsr ≠ none → exec (.perLoad ch) s = .refused .loadNotEnabled)

/-- R130: the byte is on the wire; the echo, if any, is captured if there is room; `TXC` is set if nothing waits. -/
def Obligations.PerShiftdonePutsTheByteOnTheWire : Prop :=
  ∀ (s : State) (ch : BitVec 4) (echo : Bool) (err : Tag) (c : Channel), s.chan? ch = some c →
    (∀ b, c.txsr = some b →
      exec (.perShiftdone ch echo err) s =
        .next (s.put ch
          { c with
            wire := c.wire ++ [b]
            txsr := none
            rxhold :=
              if echo = true ∧ c.rxhold.length < s.par.hwRxDepth then c.rxhold ++ [(err ++ b : BitVec (3 + 8))] else c.rxhold
            txc := if c.txdr = none then true else c.txc } none)) ∧
    (c.txsr = none → exec (.perShiftdone ch echo err) s = .refused .shiftNotEnabled)

/-! ### Frames -/

/-- R6, R148: a step on one channel writes nothing of another, of the parameters or of the schedule. -/
def Obligations.StepWritesOnlyItsOwnChannel : Prop :=
  ∀ (i : Instr) (s t : State), exec i s = .next t → SameOutside i.ch s t

/-- R6, R110 (d), R90 (e): a step reads nothing of another channel. -/
def Obligations.StepReadsOnlyItsOwnChannel : Prop :=
  ∀ (i : Instr) (s s' : State), s.par = s'.par → s.held = s'.held → s.chan? i.ch = s'.chan? i.ch →
    AgreeOn i.ch (exec i s) (exec i s')

/-- Frame of `FG.INIT`, `FG.START`, `FG.STOP` (R111 to R113): no storage slot, no peripheral-side state; `FG.START` and
`FG.STOP` keep the configuration and `ERRS`; `FG.STOP` keeps both buffers. -/
def Obligations.FrameOfInitStartStop : Prop :=
  ∀ (s t : State) (ch pmux : BitVec 4) (mode : BitVec 16) (baud : BitVec 32) (f : Bool) (c c' : Channel),
    s.chan? ch = some c → t.chan? ch = some c' →
    (exec (.fgInit ch pmux mode baud) s = .next t →
      t.held = s.held ∧ (∀ j, c'.rx.storage.read j = c.rx.storage.read j ∧ c'.tx.storage.read j = c.tx.storage.read j) ∧
      peripheralSide c' = peripheralSide c) ∧
    (exec (.fgStart ch f) s = .next t →
      t.held = s.held ∧ (∀ j, c'.rx.storage.read j = c.rx.storage.read j ∧ c'.tx.storage.read j = c.tx.storage.read j) ∧
      c' = { c with rx := c'.rx, tx := c'.tx, mode := c'.mode, skip := c'.skip, dreie := c'.dreie, rxcie := c'.rxcie,
                    txcie := c'.txcie, pins := c'.pins }) ∧
    (exec (.fgStop ch f) s = .next t →
      t.held = s.held ∧
      c' = { c with mode := c'.mode, skip := c'.skip, dreie := c'.dreie, rxcie := c'.rxcie, txcie := c'.txcie,
                    pins := c'.pins })

/-- Frame of `FG.WRITE` (R114), accepted, refused, stopped or held: the one slot written is `C.TX.head`, and
that only by an accepted write; of the rest only `C.TX`, `MODE`, the enables and `SKIP` may change. -/
def Obligations.FrameOfWrite : Prop :=
  ∀ (s t : State) (ch : BitVec 4) (nb : Bool) (data : Byte) (c c' : Channel), s.chan? ch = some c → t.chan? ch = some c' →
    exec (.fgWrite ch nb data) s = .next t →
    (∀ j, c'.rx.storage.read j = c.rx.storage.read j) ∧
    (∀ j, j ≠ c.tx.head → c'.tx.storage.read j = c.tx.storage.read j) ∧
    (t.resp ≠ some 0x0001 → ∀ j, c'.tx.storage.read j = c.tx.storage.read j) ∧
    c'.tx.tail = c.tx.tail ∧
    c' = { c with tx := c'.tx, mode := c'.mode, skip := c'.skip, dreie := c'.dreie, rxcie := c'.rxcie, txcie := c'.txcie }

/-- Frame of `FG.READ`, `FG.AVAIL`, `FG.FREE`, `FG.FLUSH`, `FG.STATUS` (R115 to R119): no slot is written; a read changes
`C.RX.tail` and `C.RX.count`, a status read the five sticky flags, the others no channel at all. -/
def Obligations.FrameOfReadAndQueries : Prop :=
  ∀ (s t : State) (ch : BitVec 4) (c c' : Channel), s.chan? ch = some c → t.chan? ch = some c' →
    (exec (.fgRead ch) s = .next t →
      t.held = s.held ∧ c' = { c with rx := { c.rx with tail := c'.rx.tail, count := c'.rx.count } }) ∧
    (exec (.fgStatus ch) s = .next t →
      t.held = s.held ∧
      c' = { c with errs := c'.errs, rx := { c.rx with ovf := c'.rx.ovf }, tx := { c.tx with ovf := c'.tx.ovf } }) ∧
    (exec (.fgAvail ch) s = .next t ∨ exec (.fgFree ch) s = .next t → t.held = s.held ∧ c' = c) ∧
    (exec (.fgFlush ch) s = .next t → c' = c)

/-- Frame of the three handlers (R91 to R93): `ISR.RXC` alone writes a slot, `C.RX.head`, and only if the buffer has room. -/
def Obligations.FrameOfHandlers : Prop :=
  ∀ (s t : State) (ch : BitVec 4) (c c' : Channel), s.chan? ch = some c → t.chan? ch = some c' →
    (exec (.isrDre ch) s = .next t →
      t.held = s.held ∧ t.resp = none ∧
      c' = { c with tx := { c.tx with tail := c'.tx.tail, count := c'.tx.count }, txdr := c'.txdr, txc := c'.txc,
                    dreie := c'.dreie }) ∧
    (exec (.isrRxc ch) s = .next t →
      t.held = s.held ∧ t.resp = none ∧
      (∀ j, j ≠ c.rx.head → c'.rx.storage.read j = c.rx.storage.read j) ∧
      (c.rx.count = s.par.nRx → ∀ j, c'.rx.storage.read j = c.rx.storage.read j) ∧
      c'.rx.tail = c.rx.tail ∧
      c' = { c with rx := c'.rx, rxhold := c'.rxhold, errs := c'.errs }) ∧
    (exec (.isrTxc ch) s = .next t →
      t.held = s.held ∧ t.resp = none ∧
      c' = { c with mode := c'.mode, skip := c'.skip, rxcie := c'.rxcie, txcie := c'.txcie, rxhold := c'.rxhold,
                    txc := c'.txc })

/-- Frame of the peripheral's moves (R128 to R130): they touch the peripheral-side state only. -/
def Obligations.FrameOfPeripheralMoves : Prop :=
  ∀ (s t : State) (ch : BitVec 4) (err : Tag) (data : Byte) (echo : Bool) (c c' : Channel),
    s.chan? ch = some c → t.chan? ch = some c' →
    (exec (.perRxframe ch err data) s = .next t →
      t.held = s.held ∧ t.resp = none ∧ c' = { c with rxhold := c'.rxhold }) ∧
    (exec (.perLoad ch) s = .next t →
      t.held = s.held ∧ t.resp = none ∧ c' = { c with txdr := c'.txdr, txsr := c'.txsr }) ∧
    (exec (.perShiftdone ch echo err) s = .next t →
      t.held = s.held ∧ t.resp = none ∧
      c' = { c with txsr := c'.txsr, rxhold := c'.rxhold, txc := c'.txc, wire := c'.wire })

/-! ### Invariants -/

/-- R31, R12, R125 P3: every step keeps the invariants I1 to I9 on every channel, the canonical form of every storage, the
depth of `RXHOLD`, contract P3 and the soundness of a held command. -/
def Obligations.StepKeepsTheInvariant : Prop :=
  ∀ s t : State, s.Inv → step s = .next t → t.Inv

/-- R7, R135: no step from a state of the invariant faults; in particular no slot is read before it is written (R50).
The two faults are the model's own choices (assumptions 5 and 15). -/
def Obligations.NoStepFaultsUnderTheInvariant : Prop :=
  ∀ (s : State) (e : Fault), s.Inv → step s ≠ .fault e

/-! ### The circular buffer as a queue (40_circular_buffer.md) -/

/-- R12, R80, R81, R84: on the queued elements `push` appends, a refused `push` changes nothing but `ovf`, `pop` removes the
oldest, `clear` empties. -/
def Obligations.BufferPrimitivesActAsAQueue : Prop :=
  ∀ (w n : Nat) (b : Buf w) (v : BitVec w), b.Inv n →
    (queued n b).length = b.count ∧
    (b.count < n → (push n b v).2 = true ∧ queued n (push n b v).1 = queued n b ++ [v]) ∧
    (b.count = n → push n b v = ({ b with ovf := true }, false)) ∧
    (∃ b', pop n b = .ok ((queued n b).head?, b') ∧ queued n b' = (queued n b).tail) ∧
    queued n (clear b) = []

/-- R85: the FIFO law for any sequence of calls from any buffer of the invariant: what was queued and then stored is what was
returned and is still queued, in order; nothing is lost, duplicated or reordered. -/
def Obligations.FifoLawOfCallSequences : Prop :=
  ∀ (w n : Nat) (ops : List (BufOp w)) (b : Buf w), b.Inv n →
    ∃ stored out b', runBuf n ops b = .ok (stored, out, b') ∧ b'.Inv n ∧ queued n b ++ stored = out ++ queued n b'

/-- R125 P2, R133: the bytes of a channel leave in the order they were written, once each: a step leaves the outgoing
sequence as it was, an accepted write appends its byte, and only a new start throws the queued bytes away. -/
def Obligations.OutgoingBytesKeepTheirOrder : Prop :=
  ∀ (s t : State) (i : Instr) (c c' : Channel), s.Inv → exec i s = .next t → s.chan? i.ch = some c →
    t.chan? i.ch = some c' →
    c'.outgoing s.par =
      match i with
      | .fgInit _ _ mode baud =>
        if s.par.cfgSupported baud (mode.extractLsb' 0 15) then c.handedOver else c.outgoing s.par
      | .fgStart _ _ => if c.configured = true ∧ c.mode = .stopped then c.handedOver else c.outgoing s.par
      | .fgWrite _ _ data => if t.resp = some 0x0001 then c.outgoing s.par ++ [data] else c.outgoing s.par
      | _ => c.outgoing s.par

/-- R92, R94, R115: received elements are read in the order `ISR.RXC` stored them, each with its tag; a full buffer drops the
newest; only a new start throws unread elements away. -/
def Obligations.ReceivedElementsKeepTheirOrder : Prop :=
  ∀ (s t : State) (i : Instr) (c c' : Channel), s.Inv → exec i s = .next t → s.chan? i.ch = some c →
    t.chan? i.ch = some c' →
    match i with
    | .fgInit _ _ mode baud =>
      queued s.par.nRx c'.rx = if s.par.cfgSupported baud (mode.extractLsb' 0 15) then [] else queued s.par.nRx c.rx
    | .fgStart _ _ =>
      queued s.par.nRx c'.rx = if c.configured = true ∧ c.mode = .stopped then [] else queued s.par.nRx c.rx
    | .fgRead _ =>
      queued s.par.nRx c'.rx = (queued s.par.nRx c.rx).tail ∧
      t.resp = some (match (queued s.par.nRx c.rx).head? with | none => 0x0000 | some v => 0x8000 ||| v.setWidth 16)
    | .isrRxc _ =>
      queued s.par.nRx c'.rx = queued s.par.nRx c.rx ++ if c.rx.count < s.par.nRx then c.rxhold.take 1 else []
    | _ => queued s.par.nRx c'.rx = queued s.par.nRx c.rx

/-! ### Whole-machine rules -/

/-- R100, R106: `MODE` changes by the four transitions and in no other way. -/
def Obligations.ModeChangesOnlyByTheTransitions : Prop :=
  ∀ (s t : State) (i : Instr) (c c' : Channel), exec i s = .next t → s.chan? i.ch = some c → t.chan? i.ch = some c' →
    c'.mode ≠ c.mode →
    match i with
    | .fgInit _ _ mode baud =>
      c'.mode = if s.par.cfgSupported baud (mode.extractLsb' 0 15) then .idle else .stopped
    | .fgStart _ _ => c.configured = true ∧ c.mode = .stopped ∧ c'.mode = .idle
    | .fgStop _ _ => c'.mode = .stopped
    | .fgWrite _ _ _ => t.resp = some 0x0001 ∧ c.mode = .idle ∧ c'.mode = .transmitting
    | .isrTxc _ => c.tx.count = 0 ∧ c.mode = .transmitting ∧ c'.mode = .idle
    | _ => False

/-- R138: every write of an enable bit. -/
def Obligations.EnablesChangeOnlyAsListed : Prop :=
  ∀ (s t : State) (i : Instr) (c c' : Channel), exec i s = .next t → s.chan? i.ch = some c → t.chan? i.ch = some c' →
    (c.rxcie = false → c'.rxcie = true →
      c'.mode = .idle ∧ ((∃ p m b, i = .fgInit i.ch p m b) ∨ (∃ f, i = .fgStart i.ch f) ∨ (i = .isrTxc i.ch ∧ c.hd = true))) ∧
    (c.rxcie = true → c'.rxcie = false →
      (c'.mode = .stopped ∧ ((∃ p m b, i = .fgInit i.ch p m b) ∨ ∃ f, i = .fgStop i.ch f)) ∨
      (c.mode = .idle ∧ c.hd = true ∧ ∃ nb d, i = .fgWrite i.ch nb d)) ∧
    (c.txcie = false → c'.txcie = true → c.mode = .idle ∧ ∃ nb d, i = .fgWrite i.ch nb d) ∧
    (c.txcie = true → c'.txcie = false →
      (c'.mode = .idle ∧ i = .isrTxc i.ch) ∨ (∃ p m b, i = .fgInit i.ch p m b) ∨ (∃ f, i = .fgStart i.ch f) ∨
      ∃ f, i = .fgStop i.ch f) ∧
    (c.dreie = false → c'.dreie = true → t.resp = some 0x0001 ∧ ∃ nb d, i = .fgWrite i.ch nb d) ∧
    (c.dreie = true → c'.dreie = false →
      (c'.tx.count = 0 ∧ i = .isrDre i.ch) ∨ (∃ p m b, i = .fgInit i.ch p m b) ∨ (∃ f, i = .fgStart i.ch f) ∨
      ∃ f, i = .fgStop i.ch f)

/-- R28: what sets and what clears each sticky flag of the block. -/
def Obligations.StickyFlagsChangeOnlyAsListed : Prop :=
  ∀ (s t : State) (i : Instr) (c c' : Channel), exec i s = .next t → s.chan? i.ch = some c → t.chan? i.ch = some c' →
    (c.rx.ovf = false → c'.rx.ovf = true → i = .isrRxc i.ch ∧ c.rx.count = s.par.nRx) ∧
    (c.rx.ovf = true → c'.rx.ovf = false →
      i = .fgStatus i.ch ∨ (c'.mode = .idle ∧ ((∃ p m b, i = .fgInit i.ch p m b) ∨ ∃ f, i = .fgStart i.ch f))) ∧
    (c.tx.ovf = false → c'.tx.ovf = true → (∃ d, i = .fgWrite i.ch true d) ∧ c.tx.count = s.par.nTx) ∧
    (c.tx.ovf = true → c'.tx.ovf = false →
      i = .fgStatus i.ch ∨ (c'.mode = .idle ∧ ((∃ p m b, i = .fgInit i.ch p m b) ∨ ∃ f, i = .fgStart i.ch f))) ∧
    (∀ k, c.errs.getLsbD k = false → c'.errs.getLsbD k = true →
      i = .isrRxc i.ch ∧ ∃ v, c.rxhold.head? = some v ∧ v.getLsbD (8 + k) = true) ∧
    (∀ k, c.errs.getLsbD k = true → c'.errs.getLsbD k = false →
      i = .fgStatus i.ch ∨ (c'.mode = .idle ∧ ∃ p m b, i = .fgInit i.ch p m b))

/-- R16, R21: the configuration is written by a successful `FG.INIT` and by nothing else. -/
def Obligations.ConfigurationIsWrittenOnlyByInit : Prop :=
  ∀ (s t : State) (i : Instr) (c c' : Channel), exec i s = .next t → s.chan? i.ch = some c → t.chan? i.ch = some c' →
    (c'.hd = c.hd ∧ c'.baud = c.baud ∧ c'.frame = c.frame ∧ c'.pmux = c.pmux ∧ c'.configured = c.configured) ∨
    ∃ pmux mode baud, i = .fgInit i.ch pmux mode baud ∧ s.par.cfgSupported baud (mode.extractLsb' 0 15) = true ∧
      c'.hd = mode.getLsbD 15 ∧ c'.baud = baud ∧ c'.frame = mode.extractLsb' 0 15 ∧ c'.pmux = pmux ∧ c'.configured = true

/-- R132: no foreground command touches any peripheral-side state. -/
def Obligations.ForegroundLeavesThePeripheralAlone : Prop :=
  ∀ (s t : State) (i : Instr) (c c' : Channel), i.isForeground = true → exec i s = .next t → s.chan? i.ch = some c →
    t.chan? i.ch = some c' → peripheralSide c' = peripheralSide c

/-- R95: the handler variant changes no outcome. -/
def Obligations.HandlerVariantHasNoEffect : Prop :=
  ∀ (v : HandlerVariant) (i : Instr) (s : State),
    exec i (withVariant v s) = mapNext (withVariant v) (exec i s) ∧ step (withVariant v s) = mapNext (withVariant v) (step s)

/-- R172, R125 P3: a transmission ends only when every byte of it has left the wire. -/
def Obligations.TransmissionEndsOnlyWhenDrained : Prop :=
  ∀ (s t : State) (i : Instr) (c c' : Channel), s.Inv → exec i s = .next t → s.chan? i.ch = some c →
    t.chan? i.ch = some c' → c.mode = .transmitting → c'.mode = .idle → i = .isrTxc i.ch →
    c'.tx.count = 0 ∧ c'.txdr = none ∧ c'.txsr = none ∧ c'.outgoing s.par = c'.wire

/-- R118: while its channel is transmitting a held `FG.FLUSH` stays held, whatever step is taken: it never returns early. -/
def Obligations.FlushStaysHeldWhileTransmitting : Prop :=
  ∀ (s t : State) (ch : BitVec 4) (c : Channel), s.held = some (.flush ch) → s.chan? ch = some c →
    c.mode = .transmitting → step s = .next t → t.held = some (.flush ch) ∧ t.resp = none

/-- R118 corner case 5: the `ISR.TXC` step that performs T3 lifts the hold of a flush, and the next step returns (the
very next one: assumption 8). -/
def Obligations.HeldFlushReturnsAfterIsrTxc : Prop :=
  ∀ (s : State) (ch : BitVec 4) (c : Channel) (rest : List Stimulus), s.held = some (.flush ch) → s.chan? ch = some c →
    c.mode = .transmitting → c.tx.count = 0 → c.txcie = true → c.txc = true → s.stimuli = encode (.isrTxc ch) :: rest →
    ∃ t u, step s = .next t ∧ step t = .next u ∧ u.held = none ∧ u.resp = some 0x0000 ∧ u.stimuli = rest

/-- R114 corner case 1: an `ISR.DRE` step lifts the hold of a blocking write, and the next step enqueues its byte last (the
very next one: assumption 8). -/
def Obligations.HeldWriteIsEnqueuedAfterIsrDre : Prop :=
  ∀ (s : State) (ch : BitVec 4) (data : Byte) (c : Channel) (rest : List Stimulus), s.Inv →
    s.held = some (.write ch data) → s.chan? ch = some c → c.mode = .transmitting → c.tx.count = s.par.nTx →
    c.txdr = none → s.stimuli = encode (.isrDre ch) :: rest →
    ∃ t u c', step s = .next t ∧ step t = .next u ∧ u.held = none ∧ u.resp = some 0x0001 ∧ u.stimuli = rest ∧
      u.chan? ch = some c' ∧ queued s.par.nTx c'.tx = (queued s.par.nTx c.tx).tail ++ [data]

/-- R48: `ISR.DRE` and `ISR.RXC` of one channel commute. -/
def Obligations.DreAndRxcHandlersCommute : Prop :=
  ∀ (s : State) (ch : BitVec 4) (c : Channel), s.Inv → s.chan? ch = some c → pending c .dre = true →
    pending c .rxc = true →
    ∃ t1 t2 u, exec (.isrDre ch) s = .next t1 ∧ exec (.isrRxc ch) t1 = .next u ∧
      exec (.isrRxc ch) s = .next t2 ∧ exec (.isrDre ch) t2 = .next u

/-- R164: on a channel with no interrupt pending and no byte in the transmitter, whatever is held, every stimulus but a
foreground command and a new frame is refused. -/
def Obligations.QuietChannelRefusesEveryOtherMove : Prop :=
  ∀ (s : State) (i : Instr) (c : Channel), s.chan? i.ch = some c → c.Quiet → i.isForeground = false →
    (∀ ch err data, i ≠ .perRxframe ch err data) → ∃ r, exec i s = .refused r

/-! ### Words in a byte memory (20_memory.md section 3) -/

/-- R42: a stored stimulus word is eight bytes and a stored response word two, the byte holding bits `[7:0]` first, and a
stored response reads back as itself. -/
def Obligations.StoredWordsAreLittleEndian : Prop :=
  (∀ w : Stimulus, (stimulusBytes w).length = 8 ∧
    ∀ k, k < 8 → (stimulusBytes w)[k]? = some (w.extractLsb' (8 * k) 8)) ∧
  (∀ r : Resp, (respBytes r).length = 2 ∧ ∀ k, k < 2 → (respBytes r)[k]? = some (r.extractLsb' (8 * k) 8)) ∧
  (∀ (r : Resp) (rest : List Byte), readResp (respBytes r ++ rest) = some (r, rest))

/-! ### The end of a run (70_reset_and_hazards.md section 2) -/

/-- R164: a quiescent channel changes only by a new foreground command or a new `PER.RXFRAME` of it, taken from the schedule
(which stands in State by the model's choice, assumption 6). -/
def Obligations.QuiescentChannelChangesOnlyFromOutside : Prop :=
  ∀ (s t : State) (ch : BitVec 4), s.Quiescent ch → step s = .next t → t.chan? ch ≠ s.chan? ch →
    ∃ w rest i, s.stimuli = w :: rest ∧ decode s.chans.length w = .ok i ∧ i.ch = ch ∧
      (i.isForeground = true ∨ ∃ err data, i = .perRxframe ch err data)
end

