-- ==== Sys2Proof/Laws/State.lean ====
section
/-! SUPPORT. One lemma per field per update of State, Channel and Buf, so that no later proof unfolds a record update. -/

namespace Sys2Proof.Machine

/-! ### Updates of the whole state -/


@[simp] theorem put_par (s : State) (ch : BitVec 4) (c : Channel) (r : Option Resp) : (s.put ch c r).par = s.par := rfl
@[simp] theorem put_chans (s : State) (ch : BitVec 4) (c : Channel) (r : Option Resp) : (s.put ch c r).chans = s.chans.set ch.toNat c := rfl
@[simp] theorem put_held (s : State) (ch : BitVec 4) (c : Channel) (r : Option Resp) : (s.put ch c r).held = s.held := rfl
@[simp] theorem put_resp (s : State) (ch : BitVec 4) (c : Channel) (r : Option Resp) : (s.put ch c r).resp = r := rfl
@[simp] theorem put_stimuli (s : State) (ch : BitVec 4) (c : Channel) (r : Option Resp) : (s.put ch c r).stimuli = s.stimuli := rfl

@[simp] theorem hold_par (s : State) (cmd : HeldCmd) : (s.hold cmd).par = s.par := rfl
@[simp] theorem hold_chans (s : State) (cmd : HeldCmd) : (s.hold cmd).chans = s.chans := rfl
@[simp] theorem hold_held (s : State) (cmd : HeldCmd) : (s.hold cmd).held = some cmd := rfl
@[simp] theorem hold_resp (s : State) (cmd : HeldCmd) : (s.hold cmd).resp = none := rfl
@[simp] theorem hold_stimuli (s : State) (cmd : HeldCmd) : (s.hold cmd).stimuli = s.stimuli := rfl

@[simp] theorem placeStimulus_par (s : State) (w : Stimulus) : (placeStimulus s w).par = s.par := rfl
@[simp] theorem placeStimulus_chans (s : State) (w : Stimulus) : (placeStimulus s w).chans = s.chans := rfl
@[simp] theorem placeStimulus_held (s : State) (w : Stimulus) : (placeStimulus s w).held = none := rfl
@[simp] theorem placeStimulus_resp (s : State) (w : Stimulus) : (placeStimulus s w).resp = s.resp := rfl
@[simp] theorem placeStimulus_stimuli (s : State) (w : Stimulus) : (placeStimulus s w).stimuli = w :: s.stimuli := rfl

@[simp] theorem dropStimulus_par (s : State)  : (dropStimulus s).par = s.par := rfl
@[simp] theorem dropStimulus_chans (s : State)  : (dropStimulus s).chans = s.chans := rfl
@[simp] theorem dropStimulus_held (s : State)  : (dropStimulus s).held = s.held := rfl
@[simp] theorem dropStimulus_resp (s : State)  : (dropStimulus s).resp = s.resp := rfl
@[simp] theorem dropStimulus_stimuli (s : State)  : (dropStimulus s).stimuli = s.stimuli.tail := rfl

/-! ### Looking a channel up after an update -/

theorem chan?_eq_some {s : State} {ch : BitVec 4} {c : Channel} (h : s.chan? ch = some c) : ch.toNat < s.chans.length :=
  (List.getElem?_eq_some_iff.mp h).1

theorem chan?_mem {s : State} {ch : BitVec 4} {c : Channel} (h : s.chan? ch = some c) : c ∈ s.chans :=
  List.mem_of_getElem? h

@[simp] theorem put_length (s : State) (ch : BitVec 4) (c : Channel) (r : Option Resp) :
    (s.put ch c r).chans.length = s.chans.length := by simp

theorem put_chan?_same {s : State} {ch : BitVec 4} {c : Channel} (h : s.chan? ch = some c) (c' : Channel)
    (r : Option Resp) : (s.put ch c' r).chan? ch = some c' := by
  have := chan?_eq_some h
  simp [State.chan?, this]

theorem put_chans_other (s : State) (ch : BitVec 4) (c : Channel) (r : Option Resp) {k : Nat} (h : k ≠ ch.toNat) :
    (s.put ch c r).chans[k]? = s.chans[k]? := by
  simp [Ne.symm h]

/-- Every channel after a put is the new record or was there before. -/
theorem mem_put {s : State} {ch : BitVec 4} {c c' : Channel} {r : Option Resp} (h : c ∈ (s.put ch c' r).chans) :
    c = c' ∨ c ∈ s.chans := by
  rcases List.mem_or_eq_of_mem_set h with h | h
  · exact .inr h
  · exact .inl h

@[simp] theorem hold_chan? (s : State) (cmd : HeldCmd) (ch : BitVec 4) : (s.hold cmd).chan? ch = s.chan? ch := rfl

/-! ### Updates of a channel -/


@[simp] theorem enterIdle_rx (c : Channel)  : (enterIdle c).rx = clear c.rx := rfl
@[simp] theorem enterIdle_tx (c : Channel)  : (enterIdle c).tx = clear c.tx := rfl
@[simp] theorem enterIdle_mode (c : Channel)  : (enterIdle c).mode = .idle := rfl
@[simp] theorem enterIdle_hd (c : Channel)  : (enterIdle c).hd = c.hd := rfl
@[simp] theorem enterIdle_skip (c : Channel)  : (enterIdle c).skip = false := rfl
@[simp] theorem enterIdle_errs (c : Channel)  : (enterIdle c).errs = c.errs := rfl
@[simp] theorem enterIdle_dreie (c : Channel)  : (enterIdle c).dreie = false := rfl
@[simp] theorem enterIdle_rxcie (c : Channel)  : (enterIdle c).rxcie = true := rfl
@[simp] theorem enterIdle_txcie (c : Channel)  : (enterIdle c).txcie = false := rfl
@[simp] theorem enterIdle_baud (c : Channel)  : (enterIdle c).baud = c.baud := rfl
@[simp] theorem enterIdle_frame (c : Channel)  : (enterIdle c).frame = c.frame := rfl
@[simp] theorem enterIdle_pmux (c : Channel)  : (enterIdle c).pmux = c.pmux := rfl
@[simp] theorem enterIdle_configured (c : Channel)  : (enterIdle c).configured = c.configured := rfl
@[simp] theorem enterIdle_pins (c : Channel)  : (enterIdle c).pins = c.pins := rfl
@[simp] theorem enterIdle_rxhold (c : Channel)  : (enterIdle c).rxhold = c.rxhold := rfl
@[simp] theorem enterIdle_txdr (c : Channel)  : (enterIdle c).txdr = c.txdr := rfl
@[simp] theorem enterIdle_txsr (c : Channel)  : (enterIdle c).txsr = c.txsr := rfl
@[simp] theorem enterIdle_txc (c : Channel)  : (enterIdle c).txc = c.txc := rfl
@[simp] theorem enterIdle_wire (c : Channel)  : (enterIdle c).wire = c.wire := rfl

@[simp] theorem enterStopped_rx (c : Channel)  : (enterStopped c).rx = c.rx := rfl
@[simp] theorem enterStopped_tx (c : Channel)  : (enterStopped c).tx = c.tx := rfl
@[simp] theorem enterStopped_mode (c : Channel)  : (enterStopped c).mode = .stopped := rfl
@[simp] theorem enterStopped_hd (c : Channel)  : (enterStopped c).hd = c.hd := rfl
@[simp] theorem enterStopped_skip (c : Channel)  : (enterStopped c).skip = false := rfl
@[simp] theorem enterStopped_errs (c : Channel)  : (enterStopped c).errs = c.errs := rfl
@[simp] theorem enterStopped_dreie (c : Channel)  : (enterStopped c).dreie = false := rfl
@[simp] theorem enterStopped_rxcie (c : Channel)  : (enterStopped c).rxcie = false := rfl
@[simp] theorem enterStopped_txcie (c : Channel)  : (enterStopped c).txcie = false := rfl
@[simp] theorem enterStopped_baud (c : Channel)  : (enterStopped c).baud = c.baud := rfl
@[simp] theorem enterStopped_frame (c : Channel)  : (enterStopped c).frame = c.frame := rfl
@[simp] theorem enterStopped_pmux (c : Channel)  : (enterStopped c).pmux = c.pmux := rfl
@[simp] theorem enterStopped_configured (c : Channel)  : (enterStopped c).configured = c.configured := rfl
@[simp] theorem enterStopped_pins (c : Channel)  : (enterStopped c).pins = c.pins := rfl
@[simp] theorem enterStopped_rxhold (c : Channel)  : (enterStopped c).rxhold = c.rxhold := rfl
@[simp] theorem enterStopped_txdr (c : Channel)  : (enterStopped c).txdr = c.txdr := rfl
@[simp] theorem enterStopped_txsr (c : Channel)  : (enterStopped c).txsr = c.txsr := rfl
@[simp] theorem enterStopped_txc (c : Channel)  : (enterStopped c).txc = c.txc := rfl
@[simp] theorem enterStopped_wire (c : Channel)  : (enterStopped c).wire = c.wire := rfl

@[simp] theorem beginTransmit_rx (c : Channel) : (beginTransmit c).rx = c.rx := by
  cases h : c.hd <;> simp [beginTransmit, h]
@[simp] theorem beginTransmit_tx (c : Channel) : (beginTransmit c).tx = c.tx := by
  cases h : c.hd <;> simp [beginTransmit, h]
@[simp] theorem beginTransmit_mode (c : Channel) : (beginTransmit c).mode = .transmitting := by
  cases h : c.hd <;> simp [beginTransmit, h]
@[simp] theorem beginTransmit_hd (c : Channel) : (beginTransmit c).hd = c.hd := by
  cases h : c.hd <;> simp [beginTransmit, h]
@[simp] theorem beginTransmit_skip (c : Channel) : (beginTransmit c).skip = (c.hd || c.skip) := by
  cases h : c.hd <;> simp [beginTransmit, h]
@[simp] theorem beginTransmit_errs (c : Channel) : (beginTransmit c).errs = c.errs := by
  cases h : c.hd <;> simp [beginTransmit, h]
@[simp] theorem beginTransmit_dreie (c : Channel) : (beginTransmit c).dreie = c.dreie := by
  cases h : c.hd <;> simp [beginTransmit, h]
@[simp] theorem beginTransmit_rxcie (c : Channel) : (beginTransmit c).rxcie = (!c.hd && c.rxcie) := by
  cases h : c.hd <;> simp [beginTransmit, h]
@[simp] theorem beginTransmit_txcie (c : Channel) : (beginTransmit c).txcie = true := by
  cases h : c.hd <;> simp [beginTransmit, h]
@[simp] theorem beginTransmit_baud (c : Channel) : (beginTransmit c).baud = c.baud := by
  cases h : c.hd <;> simp [beginTransmit, h]
@[simp] theorem beginTransmit_frame (c : Channel) : (beginTransmit c).frame = c.frame := by
  cases h : c.hd <;> simp [beginTransmit, h]
@[simp] theorem beginTransmit_pmux (c : Channel) : (beginTransmit c).pmux = c.pmux := by
  cases h : c.hd <;> simp [beginTransmit, h]
@[simp] theorem beginTransmit_configured (c : Channel) : (beginTransmit c).configured = c.configured := by
  cases h : c.hd <;> simp [beginTransmit, h]
@[simp] theorem beginTransmit_pins (c : Channel) : (beginTransmit c).pins = c.pins := by
  cases h : c.hd <;> simp [beginTransmit, h]
@[simp] theorem beginTransmit_rxhold (c : Channel) : (beginTransmit c).rxhold = c.rxhold := by
  cases h : c.hd <;> simp [beginTransmit, h]
@[simp] theorem beginTransmit_txdr (c : Channel) : (beginTransmit c).txdr = c.txdr := by
  cases h : c.hd <;> simp [beginTransmit, h]
@[simp] theorem beginTransmit_txsr (c : Channel) : (beginTransmit c).txsr = c.txsr := by
  cases h : c.hd <;> simp [beginTransmit, h]
@[simp] theorem beginTransmit_txc (c : Channel) : (beginTransmit c).txc = c.txc := by
  cases h : c.hd <;> simp [beginTransmit, h]
@[simp] theorem beginTransmit_wire (c : Channel) : (beginTransmit c).wire = c.wire := by
  cases h : c.hd <;> simp [beginTransmit, h]

/-- The loop of `end_transmit` empties `RXHOLD` and changes nothing else, given enough reads. -/
theorem discardHeld_eq (n : Nat) (c : Channel) (h : c.rxhold.length ≤ n) : discardHeld n c = { c with rxhold := [] } := by
  induction n generalizing c with
  | zero =>
    have h0 : c.rxhold = [] := List.length_eq_zero_iff.mp (Nat.le_zero.mp h)
    cases c; cases h0; rfl
  | succ n ih =>
    cases hr : c.rxhold with
    | nil => cases c; cases hr; rfl
    | cons v rest =>
      have hl : rest.length ≤ n := by simpa [hr] using h
      simpa [discardHeld, rxDataRead, hr] using ih { c with rxhold := rest } hl

/-- `end_transmit` on a half-duplex channel with an echo pending (R103). -/
theorem endTransmit_half {c : Channel} (h : (c.hd && c.skip) = true) :
    endTransmit c = { c with rxhold := [], skip := false, rxcie := true, txcie := false, mode := .idle } := by
  simp [endTransmit, h, discardHeld_eq c.rxhold.length c (Nat.le_refl _)]

/-- `end_transmit` on any other channel (R103). -/
theorem endTransmit_full {c : Channel} (h : (c.hd && c.skip) = false) :
    endTransmit c = { c with txcie := false, mode := .idle } := by
  simp [endTransmit, h]

@[simp] theorem endTransmit_rx (c : Channel) : (endTransmit c).rx = c.rx := by
  cases h : c.hd <;> cases h2 : c.skip <;> simp [endTransmit_half, endTransmit_full, h, h2]
@[simp] theorem endTransmit_tx (c : Channel) : (endTransmit c).tx = c.tx := by
  cases h : c.hd <;> cases h2 : c.skip <;> simp [endTransmit_half, endTransmit_full, h, h2]
@[simp] theorem endTransmit_mode (c : Channel) : (endTransmit c).mode = .idle := by
  cases h : c.hd <;> cases h2 : c.skip <;> simp [endTransmit_half, endTransmit_full, h, h2]
@[simp] theorem endTransmit_hd (c : Channel) : (endTransmit c).hd = c.hd := by
  cases h : c.hd <;> cases h2 : c.skip <;> simp [endTransmit_half, endTransmit_full, h, h2]
@[simp] theorem endTransmit_skip (c : Channel) : (endTransmit c).skip = (!c.hd && c.skip) := by
  cases h : c.hd <;> cases h2 : c.skip <;> simp [endTransmit_half, endTransmit_full, h, h2]
@[simp] theorem endTransmit_errs (c : Channel) : (endTransmit c).errs = c.errs := by
  cases h : c.hd <;> cases h2 : c.skip <;> simp [endTransmit_half, endTransmit_full, h, h2]
@[simp] theorem endTransmit_dreie (c : Channel) : (endTransmit c).dreie = c.dreie := by
  cases h : c.hd <;> cases h2 : c.skip <;> simp [endTransmit_half, endTransmit_full, h, h2]
@[simp] theorem endTransmit_rxcie (c : Channel) : (endTransmit c).rxcie = ((c.hd && c.skip) || c.rxcie) := by
  cases h : c.hd <;> cases h2 : c.skip <;> simp [endTransmit_half, endTransmit_full, h, h2]
@[simp] theorem endTransmit_txcie (c : Channel) : (endTransmit c).txcie = false := by
  cases h : c.hd <;> cases h2 : c.skip <;> simp [endTransmit_half, endTransmit_full, h, h2]
@[simp] theorem endTransmit_baud (c : Channel) : (endTransmit c).baud = c.baud := by
  cases h : c.hd <;> cases h2 : c.skip <;> simp [endTransmit_half, endTransmit_full, h, h2]
@[simp] theorem endTransmit_frame (c : Channel) : (endTransmit c).frame = c.frame := by
  cases h : c.hd <;> cases h2 : c.skip <;> simp [endTransmit_half, endTransmit_full, h, h2]
@[simp] theorem endTransmit_pmux (c : Channel) : (endTransmit c).pmux = c.pmux := by
  cases h : c.hd <;> cases h2 : c.skip <;> simp [endTransmit_half, endTransmit_full, h, h2]
@[simp] theorem endTransmit_configured (c : Channel) : (endTransmit c).configured = c.configured := by
  cases h : c.hd <;> cases h2 : c.skip <;> simp [endTransmit_half, endTransmit_full, h, h2]
@[simp] theorem endTransmit_pins (c : Channel) : (endTransmit c).pins = c.pins := by
  cases h : c.hd <;> cases h2 : c.skip <;> simp [endTransmit_half, endTransmit_full, h, h2]
@[simp] theorem endTransmit_rxhold (c : Channel) : (endTransmit c).rxhold = (if c.hd && c.skip then [] else c.rxhold) := by
  cases h : c.hd <;> cases h2 : c.skip <;> simp [endTransmit_half, endTransmit_full, h, h2]
@[simp] theorem endTransmit_txdr (c : Channel) : (endTransmit c).txdr = c.txdr := by
  cases h : c.hd <;> cases h2 : c.skip <;> simp [endTransmit_half, endTransmit_full, h, h2]
@[simp] theorem endTransmit_txsr (c : Channel) : (endTransmit c).txsr = c.txsr := by
  cases h : c.hd <;> cases h2 : c.skip <;> simp [endTransmit_half, endTransmit_full, h, h2]
@[simp] theorem endTransmit_txc (c : Channel) : (endTransmit c).txc = c.txc := by
  cases h : c.hd <;> cases h2 : c.skip <;> simp [endTransmit_half, endTransmit_full, h, h2]
@[simp] theorem endTransmit_wire (c : Channel) : (endTransmit c).wire = c.wire := by
  cases h : c.hd <;> cases h2 : c.skip <;> simp [endTransmit_half, endTransmit_full, h, h2]

@[simp] theorem receiveFrame_rx (depth : Nat) (c : Channel) (v : Frame) : (receiveFrame depth c v).rx = c.rx := by
  unfold receiveFrame; split <;> rfl
@[simp] theorem receiveFrame_tx (depth : Nat) (c : Channel) (v : Frame) : (receiveFrame depth c v).tx = c.tx := by
  unfold receiveFrame; split <;> rfl
@[simp] theorem receiveFrame_mode (depth : Nat) (c : Channel) (v : Frame) : (receiveFrame depth c v).mode = c.mode := by
  unfold receiveFrame; split <;> rfl
@[simp] theorem receiveFrame_hd (depth : Nat) (c : Channel) (v : Frame) : (receiveFrame depth c v).hd = c.hd := by
  unfold receiveFrame; split <;> rfl
@[simp] theorem receiveFrame_skip (depth : Nat) (c : Channel) (v : Frame) : (receiveFrame depth c v).skip = c.skip := by
  unfold receiveFrame; split <;> rfl
@[simp] theorem receiveFrame_errs (depth : Nat) (c : Channel) (v : Frame) : (receiveFrame depth c v).errs = c.errs := by
  unfold receiveFrame; split <;> rfl
@[simp] theorem receiveFrame_dreie (depth : Nat) (c : Channel) (v : Frame) : (receiveFrame depth c v).dreie = c.dreie := by
  unfold receiveFrame; split <;> rfl
@[simp] theorem receiveFrame_rxcie (depth : Nat) (c : Channel) (v : Frame) : (receiveFrame depth c v).rxcie = c.rxcie := by
  unfold receiveFrame; split <;> rfl
@[simp] theorem receiveFrame_txcie (depth : Nat) (c : Channel) (v : Frame) : (receiveFrame depth c v).txcie = c.txcie := by
  unfold receiveFrame; split <;> rfl
@[simp] theorem receiveFrame_baud (depth : Nat) (c : Channel) (v : Frame) : (receiveFrame depth c v).baud = c.baud := by
  unfold receiveFrame; split <;> rfl
@[simp] theorem receiveFrame_frame (depth : Nat) (c : Channel) (v : Frame) : (receiveFrame depth c v).frame = c.frame := by
  unfold receiveFrame; split <;> rfl
@[simp] theorem receiveFrame_pmux (depth : Nat) (c : Channel) (v : Frame) : (receiveFrame depth c v).pmux = c.pmux := by
  unfold receiveFrame; split <;> rfl
@[simp] theorem receiveFrame_configured (depth : Nat) (c : Channel) (v : Frame) : (receiveFrame depth c v).configured = c.configured := by
  unfold receiveFrame; split <;> rfl
@[simp] theorem receiveFrame_pins (depth : Nat) (c : Channel) (v : Frame) : (receiveFrame depth c v).pins = c.pins := by
  unfold receiveFrame; split <;> rfl
@[simp] theorem receiveFrame_rxhold (depth : Nat) (c : Channel) (v : Frame) : (receiveFrame depth c v).rxhold = (if c.rxhold.length < depth then c.rxhold ++ [v] else c.rxhold) := by
  unfold receiveFrame; split <;> rfl
@[simp] theorem receiveFrame_txdr (depth : Nat) (c : Channel) (v : Frame) : (receiveFrame depth c v).txdr = c.txdr := by
  unfold receiveFrame; split <;> rfl
@[simp] theorem receiveFrame_txsr (depth : Nat) (c : Channel) (v : Frame) : (receiveFrame depth c v).txsr = c.txsr := by
  unfold receiveFrame; split <;> rfl
@[simp] theorem receiveFrame_txc (depth : Nat) (c : Channel) (v : Frame) : (receiveFrame depth c v).txc = c.txc := by
  unfold receiveFrame; split <;> rfl
@[simp] theorem receiveFrame_wire (depth : Nat) (c : Channel) (v : Frame) : (receiveFrame depth c v).wire = c.wire := by
  unfold receiveFrame; split <;> rfl

/-! ### Updates of a buffer -/

@[simp] theorem clear_storage {w : Nat} (b : Buf w) : (clear b).storage = b.storage := rfl
@[simp] theorem clear_head {w : Nat} (b : Buf w) : (clear b).head = 0 := rfl
@[simp] theorem clear_tail {w : Nat} (b : Buf w) : (clear b).tail = 0 := rfl
@[simp] theorem clear_count {w : Nat} (b : Buf w) : (clear b).count = 0 := rfl
@[simp] theorem clear_ovf {w : Nat} (b : Buf w) : (clear b).ovf = false := rfl

end Sys2Proof.Machine
end

