-- ==== Sys2Proof/Laws/Ops.lean ====
section
/-! SUPPORT. For each shared operation, what it can do: the storage laws, the buffer primitives, the data-register
primitives, the wrappers every meaning goes through, and the one inversion of exec. -/

namespace Sys2Proof.Machine

/-! ### Storage (R43, R50) -/

theorem read_write_same {w : Nat} (m : Memory w) (i : Nat) (v : BitVec w) : Memory.read (Memory.write m i v) i = some v := by
  induction m with
  | nil => simp [Memory.write, Memory.read]
  | cons kx m ih =>
    obtain ⟨k, x⟩ := kx
    unfold Memory.write
    split
    · simp [Memory.read]
    · split
      · simp [Memory.read]
      · next h => simpa [Memory.read, Ne.symm h] using ih

theorem read_write_other {w : Nat} (m : Memory w) {i j : Nat} (v : BitVec w) (h : j ≠ i) :
    Memory.read (Memory.write m i v) j = Memory.read m j := by
  induction m with
  | nil => simp [Memory.write, Memory.read, Ne.symm h]
  | cons kx m ih =>
    obtain ⟨k, x⟩ := kx
    unfold Memory.write
    split
    · simp [Memory.read, Ne.symm h]
    · split
      · next hi => subst hi; simp [Memory.read, Ne.symm h]
      · simp [Memory.read, ih]

theorem wfFrom_write {w n lo : Nat} {m : Memory w} {i : Nat} (v : BitVec w) (hm : Memory.wfFrom n lo m = true) (hlo : lo ≤ i)
    (hi : i < n) : Memory.wfFrom n lo (Memory.write m i v) = true := by
  induction m generalizing lo with
  | nil => simp [Memory.write, Memory.wfFrom, hlo, hi]
  | cons kx m ih =>
    obtain ⟨k, x⟩ := kx
    simp only [Memory.wfFrom, Bool.and_eq_true, decide_eq_true_eq] at hm
    unfold Memory.write
    split
    · next h => simp [Memory.wfFrom, hlo, hi, hm, Nat.succ_le_of_lt h]
    · split
      · next _ h => subst h; simp [Memory.wfFrom, hm]
      · next h1 h2 =>
        simp only [Memory.wfFrom, Bool.and_eq_true, decide_eq_true_eq]
        exact ⟨hm.1, ih hm.2 (by omega)⟩

/-- A storage write keeps the canonical form. -/
theorem wf_write {w n : Nat} {m : Memory w} {i : Nat} (v : BitVec w) (hm : Memory.wf n m = true) (hi : i < n) :
    Memory.wf n (Memory.write m i v) = true := wfFrom_write v hm (Nat.zero_le i) hi

/-! ### The circular buffer (R80 to R84) -/

/-- `push` on a full buffer: only the overflow indicator changes (R80, R86). -/
theorem push_full {w n : Nat} {b : Buf w} (v : BitVec w) (h : b.count = n) : push n b v = ({ b with ovf := true }, false) := by
  simp [push, h]

/-- `push` on a buffer with room (R80). -/
theorem push_room {w n : Nat} {b : Buf w} (v : BitVec w) (h : b.count ≠ n) :
    push n b v =
      ({ b with storage := b.storage.write b.head v, head := (b.head + 1) % n, count := b.count + 1 }, true) := by
  simp [push, h]

/-- What `push` can do. -/
theorem push_cases {w : Nat} (n : Nat) (b : Buf w) (v : BitVec w) :
    (b.count = n ∧ push n b v = ({ b with ovf := true }, false)) ∨
      (b.count ≠ n ∧ push n b v =
        ({ b with storage := b.storage.write b.head v, head := (b.head + 1) % n, count := b.count + 1 }, true)) := by
  by_cases h : b.count = n
  · exact .inl ⟨h, push_full v h⟩
  · exact .inr ⟨h, push_room v h⟩

/-- What `pop` can do when it does not fault. -/
theorem pop_ok {w n : Nat} {b b' : Buf w} {r : Option (BitVec w)} (h : pop n b = .ok (r, b')) :
    (b.count = 0 ∧ r = none ∧ b' = b) ∨
      (b.count ≠ 0 ∧ ∃ v, b.storage.read b.tail = some v ∧ r = some v ∧
        b' = { b with tail := (b.tail + 1) % n, count := b.count - 1 }) := by
  unfold pop at h
  split at h
  · next hc => cases h; exact .inl ⟨hc, rfl, rfl⟩
  · next hc =>
    split at h
    · cases h
    · next v hv => cases h; exact .inr ⟨hc, v, hv, rfl, rfl⟩

/-- `pop` on a non-empty buffer whose oldest slot holds `v` (R81). -/
theorem pop_some {w n : Nat} {b : Buf w} {v : BitVec w} (hc : b.count ≠ 0) (hv : b.storage.read b.tail = some v) :
    pop n b = .ok (some v, { b with tail := (b.tail + 1) % n, count := b.count - 1 }) := by
  simp [pop, hc, hv]

/-- `pop` on an empty buffer (R81). -/
theorem pop_empty {w n : Nat} {b : Buf w} (hc : b.count = 0) : pop n b = .ok (none, b) := by simp [pop, hc]

/-- `push` keeps the buffer invariant. -/
theorem push_inv {w n : Nat} {b : Buf w} (v : BitVec w) (hb : b.Inv n) : (push n b v).1.Inv n := by
  rcases push_cases n b v with ⟨_, h⟩ | ⟨hc, h⟩ <;> rw [h]
  · exact { hb with }
  · have hn : 0 < n := Nat.lt_of_le_of_lt (Nat.zero_le _) hb.headLt
    have hlt : b.count < n := Nat.lt_of_le_of_ne hb.countLe hc
    refine ⟨hlt, Nat.mod_lt _ hn, hb.tailLt, ?_, wf_write v hb.memory hb.headLt, ?_⟩
    · show (b.head + 1) % n = (b.tail + (b.count + 1)) % n
      rw [hb.congruent, Nat.mod_add_mod, Nat.add_assoc]
    · intro j hj
      have hj : j < b.count + 1 := hj
      show (Memory.read (Memory.write b.storage b.head v) ((b.tail + j) % n)).isSome = true
      by_cases he : (b.tail + j) % n = b.head
      · rw [he, read_write_same]; rfl
      · rw [read_write_other _ _ he]
        refine hb.written j (Nat.lt_of_le_of_ne (Nat.le_of_lt_succ hj) fun hjc => he ?_)
        rw [hjc, hb.congruent]

/-- `pop` keeps the buffer invariant. -/
theorem pop_inv {w n : Nat} {b b' : Buf w} {r : Option (BitVec w)} (hb : b.Inv n) (h : pop n b = .ok (r, b')) : b'.Inv n := by
  rcases pop_ok h with ⟨_, _, rfl⟩ | ⟨hc, v, _, _, rfl⟩
  · exact hb
  · have hn : 0 < n := Nat.lt_of_le_of_lt (Nat.zero_le _) hb.headLt
    refine ⟨Nat.le_trans (Nat.sub_le _ _) hb.countLe, hb.headLt, Nat.mod_lt _ hn, ?_, hb.memory, ?_⟩
    · show b.head = ((b.tail + 1) % n + (b.count - 1)) % n
      rw [Nat.mod_add_mod, hb.congruent]; congr 1; omega
    · intro j hj
      have hj : j < b.count - 1 := hj
      have := hb.written (j + 1) (by omega)
      show (Memory.read b.storage (((b.tail + 1) % n + j) % n)).isSome = true
      rwa [Nat.mod_add_mod, Nat.add_right_comm, Nat.add_assoc]

/-- `clear` keeps the buffer invariant. -/
theorem clear_inv {w n : Nat} {b : Buf w} (hb : b.Inv n) : (clear b).Inv n := by
  have hn : 0 < n := Nat.lt_of_le_of_lt (Nat.zero_le _) hb.headLt
  exact ⟨Nat.zero_le _, hn, hn, by simp [Nat.zero_mod], hb.memory, fun j hj => absurd hj (Nat.not_lt_zero j)⟩

/-- A buffer after reset meets the buffer invariant. -/
theorem reset_buf_inv (w : Nat) {n : Nat} (hn : 0 < n) : (Buf.reset w).Inv n :=
  ⟨Nat.zero_le _, hn, hn, by simp [Buf.reset, Nat.zero_mod], rfl, fun j hj => absurd hj (Nat.not_lt_zero j)⟩

/-- From the invariant a non-empty buffer's oldest slot holds a value, so `pop` does not fault. -/
theorem oldest_written {w n : Nat} {b : Buf w} (hb : b.Inv n) (hc : b.count ≠ 0) : ∃ v, b.storage.read b.tail = some v := by
  have := hb.written 0 (Nat.pos_of_ne_zero hc)
  rw [Nat.add_zero, Nat.mod_eq_of_lt hb.tailLt] at this
  exact Option.isSome_iff_exists.mp this

/-! ### The data-register primitives (R126, R127) -/

theorem txDataWrite_ok {c c' : Channel} {b : Byte} (h : txDataWrite c b = .ok c') :
    c.txdr = none ∧ c' = { c with txdr := some b, txc := false } := by
  unfold txDataWrite at h
  split at h
  · cases h
  · next hn => cases h; exact ⟨hn, rfl⟩

theorem rxDataRead_some {c c' : Channel} {v : Frame} (h : rxDataRead c = some (v, c')) :
    c.rxhold = v :: c'.rxhold ∧ c' = { c with rxhold := c'.rxhold } := by
  unfold rxDataRead at h
  split at h
  · cases h
  · next hv => cases h; exact ⟨hv, rfl⟩

/-! ### The wrappers of every meaning -/

theorem onChannel_eq {s : State} {ch : BitVec 4} {c : Channel} (h : s.chan? ch = some c) (f : Channel → Result) :
    onChannel s ch f = f c := by simp [onChannel, h]

theorem onChannel_absent {s : State} {ch : BitVec 4} (h : s.chan? ch = none) (f : Channel → Result) :
    onChannel s ch f = .refused .absentChannel := by simp [onChannel, h]

theorem onChannel_next {s t : State} {ch : BitVec 4} {f : Channel → Result} (h : onChannel s ch f = .next t) :
    ∃ c, s.chan? ch = some c ∧ f c = .next t := by
  unfold onChannel at h
  split at h
  · cases h
  · next c hc => exact ⟨c, hc, h⟩

theorem foreground_eq {s : State} {ch : BitVec 4} {c : Channel} (h : s.chan? ch = some c) (hh : s.held = none)
    (f : Channel → Result) : foreground s ch f = f c := by simp [foreground, onChannel_eq h, hh]

theorem foreground_busy {s : State} {ch : BitVec 4} {c : Channel} (h : s.chan? ch = some c) (hh : s.held ≠ none)
    (f : Channel → Result) : foreground s ch f = .refused .portBusy := by
  simp [foreground, onChannel_eq h, Option.isSome_iff_ne_none.mpr hh]

theorem foreground_next {s t : State} {ch : BitVec 4} {f : Channel → Result} (h : foreground s ch f = .next t) :
    ∃ c, s.chan? ch = some c ∧ s.held = none ∧ f c = .next t := by
  obtain ⟨c, hc, h⟩ := onChannel_next h
  split at h
  · cases h
  · next hh => exact ⟨c, hc, by simpa using hh, h⟩

theorem dispatch_eq {s : State} {ch : BitVec 4} {c : Channel} {src : Source} (h : s.chan? ch = some c)
    (hp : pending c src = true) (f : Channel → Result) : dispatch s ch src f = f c := by
  simp [dispatch, onChannel_eq h, hp]

theorem dispatch_notPending {s : State} {ch : BitVec 4} {c : Channel} {src : Source} (h : s.chan? ch = some c)
    (hp : pending c src = false) (f : Channel → Result) : dispatch s ch src f = .refused (.notPending src) := by
  simp [dispatch, onChannel_eq h, hp]

theorem dispatch_next {s t : State} {ch : BitVec 4} {src : Source} {f : Channel → Result}
    (h : dispatch s ch src f = .next t) : ∃ c, s.chan? ch = some c ∧ pending c src = true ∧ f c = .next t := by
  obtain ⟨c, hc, h⟩ := onChannel_next h
  split at h
  · next hp => exact ⟨c, hc, hp, h⟩
  · cases h

theorem orFault_next {α : Type} {r : Except Fault α} {f : α → Result} {t : State} (h : orFault r f = .next t) :
    ∃ a, r = .ok a ∧ f a = .next t := by
  cases r with
  | error e => cases h
  | ok a => exact ⟨a, rfl, h⟩

/-- What a performed or held stimulus does to the state as a whole: it puts one record back in the channel it names, or it
leaves every channel and becomes the outstanding command. -/
theorem exec_next_shape {i : Instr} {s t : State} (h : exec i s = .next t) :
    ∃ c, s.chan? i.ch = some c ∧
      ((∃ c' r, t = s.put i.ch c' r) ∨ (i.isForeground = true ∧ s.held = none ∧ ∃ cmd, t = s.hold cmd)) := by
  cases i with
  | fgInit ch pmux mode baud => obtain ⟨c, hc, -, h⟩ := foreground_next h; cases h; exact ⟨c, hc, .inl ⟨_, _, rfl⟩⟩
  | fgStart ch f => obtain ⟨c, hc, -, h⟩ := foreground_next h; cases h; exact ⟨c, hc, .inl ⟨_, _, rfl⟩⟩
  | fgStop ch f => obtain ⟨c, hc, -, h⟩ := foreground_next h; cases h; exact ⟨c, hc, .inl ⟨_, _, rfl⟩⟩
  | fgWrite ch nb data =>
    obtain ⟨c, hc, hh, h⟩ := foreground_next h
    split at h
    · cases h; exact ⟨c, hc, .inl ⟨_, _, rfl⟩⟩
    · cases h; exact ⟨c, hc, .inr ⟨rfl, hh, _, rfl⟩⟩
  | fgRead ch =>
    obtain ⟨c, hc, -, h⟩ := foreground_next h
    obtain ⟨a, -, h⟩ := orFault_next h
    cases h; exact ⟨c, hc, .inl ⟨_, _, rfl⟩⟩
  | fgAvail ch => obtain ⟨c, hc, -, h⟩ := foreground_next h; cases h; exact ⟨c, hc, .inl ⟨_, _, rfl⟩⟩
  | fgFree ch => obtain ⟨c, hc, -, h⟩ := foreground_next h; cases h; exact ⟨c, hc, .inl ⟨_, _, rfl⟩⟩
  | fgFlush ch =>
    obtain ⟨c, hc, hh, h⟩ := foreground_next h
    split at h
    · cases h; exact ⟨c, hc, .inl ⟨_, _, rfl⟩⟩
    · cases h; exact ⟨c, hc, .inr ⟨rfl, hh, _, rfl⟩⟩
  | fgStatus ch => obtain ⟨c, hc, -, h⟩ := foreground_next h; cases h; exact ⟨c, hc, .inl ⟨_, _, rfl⟩⟩
  | isrDre ch =>
    obtain ⟨c, hc, -, h⟩ := dispatch_next h
    obtain ⟨a, -, h⟩ := orFault_next h
    cases h; exact ⟨c, hc, .inl ⟨_, _, rfl⟩⟩
  | isrRxc ch =>
    obtain ⟨c, hc, -, h⟩ := dispatch_next h
    split at h
    · cases h
    · cases h; exact ⟨c, hc, .inl ⟨_, _, rfl⟩⟩
  | isrTxc ch => obtain ⟨c, hc, -, h⟩ := dispatch_next h; cases h; exact ⟨c, hc, .inl ⟨_, _, rfl⟩⟩
  | perRxframe ch err data => obtain ⟨c, hc, h⟩ := onChannel_next h; cases h; exact ⟨c, hc, .inl ⟨_, _, rfl⟩⟩
  | perLoad ch =>
    obtain ⟨c, hc, h⟩ := onChannel_next h
    split at h
    · cases h
    · cases h; exact ⟨c, hc, .inl ⟨_, _, rfl⟩⟩
  | perShiftdone ch echo err =>
    obtain ⟨c, hc, h⟩ := onChannel_next h
    split at h
    · cases h
    · cases h; exact ⟨c, hc, .inl ⟨_, _, rfl⟩⟩

end Sys2Proof.Machine
end

