-- ==== Sys2Proof/Laws/Effects.lean ====
section
/-! SUPPORT. The inversion of exec: for each stimulus, everything a next state says about the channel it names, the response
and the outstanding command, in terms of the stimulus's channel function. Proofs about exec cite it instead of unfolding the
meanings. -/

namespace Sys2Proof.Machine

/-- What a next state `t` of instruction `i` says: `c` is the record of the channel before, `c'` the one after. -/
def Effect (i : Instr) (s t : State) (c c' : Channel) : Prop :=
  match i with
  | .fgInit _ pmux mode baud =>
    c' = (initChannel s.par c pmux mode baud).1 ∧ t.resp = some (initChannel s.par c pmux mode baud).2 ∧ t.held = s.held
  | .fgStart _ f => c' = (startChannel c f).1 ∧ t.resp = some (startChannel c f).2 ∧ t.held = s.held
  | .fgStop _ f => c' = (stopChannel c f).1 ∧ t.resp = some (stopChannel c f).2 ∧ t.held = s.held
  | .fgWrite ch nb data =>
    ((nb || writeGuard s.par c) = true ∧ c' = (writeChannel s.par c data).1 ∧
        t.resp = some (writeChannel s.par c data).2 ∧ t.held = s.held) ∨
      ((nb || writeGuard s.par c) = false ∧ c' = c ∧ t.resp = none ∧ t.held = some (.write ch data))
  | .fgRead _ => ∃ r, readChannel s.par c = .ok (c', r) ∧ t.resp = some r ∧ t.held = s.held
  | .fgAvail _ => c' = c ∧ t.resp = some (respCount (available c.rx)) ∧ t.held = s.held
  | .fgFree _ => c' = c ∧ t.resp = some (respCount (freeSpace s.par.nTx c.tx)) ∧ t.held = s.held
  | .fgFlush ch =>
    (flushGuard c = true ∧ c' = c ∧ t.resp = some 0 ∧ t.held = s.held) ∨
      (flushGuard c = false ∧ c' = c ∧ t.resp = none ∧ t.held = some (.flush ch))
  | .fgStatus _ => c' = (statusChannel c).1 ∧ t.resp = some (statusChannel c).2 ∧ t.held = s.held
  | .isrDre _ => pending c .dre = true ∧ dreChannel s.par c = .ok c' ∧ t.resp = none ∧ t.held = s.held
  | .isrRxc _ => pending c .rxc = true ∧ rxcChannel s.par c = some c' ∧ t.resp = none ∧ t.held = s.held
  | .isrTxc _ => pending c .txc = true ∧ c' = txcChannel c ∧ t.resp = none ∧ t.held = s.held
  | .perRxframe _ err data =>
    c' = receiveFrame s.par.hwRxDepth c (mkFrame err data) ∧ t.resp = none ∧ t.held = s.held
  | .perLoad _ => loadChannel c = some c' ∧ t.resp = none ∧ t.held = s.held
  | .perShiftdone _ echo err => shiftdoneChannel s.par.hwRxDepth c echo err = some c' ∧ t.resp = none ∧ t.held = s.held

theorem put_record {s : State} {ch : BitVec 4} {c c1 c' : Channel} {r : Option Resp} (h : s.chan? ch = some c)
    (h' : (s.put ch c1 r).chan? ch = some c') : c' = c1 := by
  rw [put_chan?_same h] at h'; exact (Option.some.inj h').symm

/-- Every next state of exec has the stimulus's effect on the channel it names. -/
theorem exec_effect {i : Instr} {s t : State} {c c' : Channel} (h : exec i s = .next t) (hc : s.chan? i.ch = some c)
    (hc' : t.chan? i.ch = some c') : Effect i s t c c' := by
  cases i with
  | fgInit ch pmux mode baud =>
    obtain ⟨d, hd, -, h⟩ := foreground_next h
    obtain rfl : c = d := Option.some.inj (hc.symm.trans hd)
    cases h; exact ⟨put_record hd hc', rfl, rfl⟩
  | fgStart ch f =>
    obtain ⟨d, hd, -, h⟩ := foreground_next h
    obtain rfl : c = d := Option.some.inj (hc.symm.trans hd)
    cases h; exact ⟨put_record hd hc', rfl, rfl⟩
  | fgStop ch f =>
    obtain ⟨d, hd, -, h⟩ := foreground_next h
    obtain rfl : c = d := Option.some.inj (hc.symm.trans hd)
    cases h; exact ⟨put_record hd hc', rfl, rfl⟩
  | fgWrite ch nb data =>
    obtain ⟨d, hd, -, h⟩ := foreground_next h
    obtain rfl : c = d := Option.some.inj (hc.symm.trans hd)
    split at h
    · next hg => cases h; exact .inl ⟨hg, put_record hd hc', rfl, rfl⟩
    · next hg => cases h; exact .inr ⟨by simpa using hg, Option.some.inj (hc'.symm.trans hd), rfl, rfl⟩
  | fgRead ch =>
    obtain ⟨d, hd, -, h⟩ := foreground_next h
    obtain rfl : c = d := Option.some.inj (hc.symm.trans hd)
    obtain ⟨⟨c1, r⟩, ha, h⟩ := orFault_next h
    cases h
    obtain rfl : c' = c1 := put_record hd hc'
    exact ⟨r, ha, rfl, rfl⟩
  | fgAvail ch =>
    obtain ⟨d, hd, -, h⟩ := foreground_next h
    obtain rfl : c = d := Option.some.inj (hc.symm.trans hd)
    cases h; exact ⟨put_record hd hc', rfl, rfl⟩
  | fgFree ch =>
    obtain ⟨d, hd, -, h⟩ := foreground_next h
    obtain rfl : c = d := Option.some.inj (hc.symm.trans hd)
    cases h; exact ⟨put_record hd hc', rfl, rfl⟩
  | fgFlush ch =>
    obtain ⟨d, hd, -, h⟩ := foreground_next h
    obtain rfl : c = d := Option.some.inj (hc.symm.trans hd)
    split at h
    · next hg => cases h; exact .inl ⟨hg, put_record hd hc', rfl, rfl⟩
    · next hg => cases h; exact .inr ⟨by simpa using hg, Option.some.inj (hc'.symm.trans hd), rfl, rfl⟩
  | fgStatus ch =>
    obtain ⟨d, hd, -, h⟩ := foreground_next h
    obtain rfl : c = d := Option.some.inj (hc.symm.trans hd)
    cases h; exact ⟨put_record hd hc', rfl, rfl⟩
  | isrDre ch =>
    obtain ⟨d, hd, hp, h⟩ := dispatch_next h
    obtain rfl : c = d := Option.some.inj (hc.symm.trans hd)
    obtain ⟨c1, ha, h⟩ := orFault_next h
    cases h
    obtain rfl : c' = c1 := put_record hd hc'
    exact ⟨hp, ha, rfl, rfl⟩
  | isrRxc ch =>
    obtain ⟨d, hd, hp, h⟩ := dispatch_next h
    obtain rfl : c = d := Option.some.inj (hc.symm.trans hd)
    split at h
    · cases h
    · next c1 ha =>
      cases h
      obtain rfl : c' = c1 := put_record hd hc'
      exact ⟨hp, ha, rfl, rfl⟩
  | isrTxc ch =>
    obtain ⟨d, hd, hp, h⟩ := dispatch_next h
    obtain rfl : c = d := Option.some.inj (hc.symm.trans hd)
    cases h; exact ⟨hp, put_record hd hc', rfl, rfl⟩
  | perRxframe ch err data =>
    obtain ⟨d, hd, h⟩ := onChannel_next h
    obtain rfl : c = d := Option.some.inj (hc.symm.trans hd)
    cases h; exact ⟨put_record hd hc', rfl, rfl⟩
  | perLoad ch =>
    obtain ⟨d, hd, h⟩ := onChannel_next h
    obtain rfl : c = d := Option.some.inj (hc.symm.trans hd)
    split at h
    · cases h
    · next c1 ha =>
      cases h
      obtain rfl : c' = c1 := put_record hd hc'
      exact ⟨ha, rfl, rfl⟩
  | perShiftdone ch echo err =>
    obtain ⟨d, hd, h⟩ := onChannel_next h
    obtain rfl : c = d := Option.some.inj (hc.symm.trans hd)
    split at h
    · cases h
    · next c1 ha =>
      cases h
      obtain rfl : c' = c1 := put_record hd hc'
      exact ⟨ha, rfl, rfl⟩

/-! ### What the channel functions can do -/

/-- What `FG.WRITE` does once it is not held. -/
theorem writeChannel_cases (p : Params) (c : Channel) (data : Byte) :
    (c.mode = .stopped ∧ writeChannel p c data = (c, 0)) ∨
      (c.mode ≠ .stopped ∧ c.tx.count = p.nTx ∧ writeChannel p c data = ({ c with tx := { c.tx with ovf := true } }, 0)) ∨
      (c.mode ≠ .stopped ∧ c.tx.count ≠ p.nTx ∧ (writeChannel p c data).2 = 1 ∧
        (writeChannel p c data).1 =
          { c with
            tx := (push p.nTx c.tx data).1
            mode := .transmitting
            dreie := true
            txcie := if c.mode = .idle then true else c.txcie
            rxcie := if c.mode = .idle ∧ c.hd = true then false else c.rxcie
            skip := if c.mode = .idle ∧ c.hd = true then true else c.skip }) := by
  by_cases hm : c.mode = .stopped
  · exact .inl ⟨hm, by simp [writeChannel, hm, respBit]⟩
  · rcases push_cases p.nTx c.tx data with ⟨hf, h⟩ | ⟨hf, h⟩
    · exact .inr (.inl ⟨hm, hf, by simp [writeChannel, hm, h, respBit]⟩)
    · refine .inr (.inr ⟨hm, hf, by simp [writeChannel, hm, h, respBit], ?_⟩)
      simp only [writeChannel, hm, if_false, h]
      cases hi : c.mode with
      | stopped => exact absurd hi hm
      | idle => cases hd : c.hd <;> simp [beginTransmit]
      | transmitting => simp

/-- What `ISR.DRE` does when it does not fault. -/
theorem dreChannel_ok {p : Params} {c c' : Channel} (h : dreChannel p c = .ok c') :
    (c.tx.count = 0 ∧ c' = { c with dreie := false }) ∨
      (c.tx.count ≠ 0 ∧ c.txdr = none ∧ ∃ b, c.tx.storage.read c.tx.tail = some b ∧
        c' = { c with
          tx := { c.tx with tail := (c.tx.tail + 1) % p.nTx, count := c.tx.count - 1 }
          txdr := some b
          txc := false
          dreie := if c.tx.count = 1 then false else c.dreie }) := by
  unfold dreChannel at h
  split at h
  · cases h
  · next hp =>
    rcases pop_ok hp with ⟨h0, -, -⟩ | ⟨-, v, -, hv, -⟩
    · cases h; exact .inl ⟨h0, rfl⟩
    · cases hv
  · next b tx hp =>
    rcases pop_ok hp with ⟨-, hv, -⟩ | ⟨h0, v, hr, hv, rfl⟩
    · cases hv
    · cases hv
      split at h
      · cases h
      · next c1 ht =>
        obtain ⟨hn, rfl⟩ := txDataWrite_ok ht
        cases h
        refine .inr ⟨h0, hn, b, hr, ?_⟩
        by_cases h1 : c.tx.count = 1
        · simp [h1]
        · have : c.tx.count - 1 ≠ 0 := by omega
          simp [h1, this]

/-- What `ISR.RXC` does when a frame is held. -/
theorem rxcChannel_some {p : Params} {c c' : Channel} (h : rxcChannel p c = some c') :
    ∃ v rest, c.rxhold = v :: rest ∧
      c' = { c with rxhold := rest, errs := c.errs ||| frameTag v, rx := (push p.nRx c.rx v).1 } := by
  unfold rxcChannel rxDataRead at h
  split at h
  · cases h
  · next v c1 hr =>
    split at hr
    · cases hr
    · next v' rest hh => cases hr; cases h; exact ⟨v, rest, hh, rfl⟩

/-- What `ISR.TXC` does. -/
theorem txcChannel_cases (c : Channel) :
    (c.tx.count = 0 ∧ c.mode = .transmitting ∧ c.hd = true ∧ c.skip = true ∧
        txcChannel c =
          { c with txc := false, rxhold := [], skip := false, rxcie := true, txcie := false, mode := .idle }) ∨
      (c.tx.count = 0 ∧ c.mode = .transmitting ∧ ¬ (c.hd = true ∧ c.skip = true) ∧
        txcChannel c = { c with txc := false, txcie := false, mode := .idle }) ∨
      (¬ (c.tx.count = 0 ∧ c.mode = .transmitting) ∧ txcChannel c = { c with txc := false }) := by
  by_cases h : c.tx.count = 0 ∧ c.mode = .transmitting
  · by_cases h2 : c.hd = true ∧ c.skip = true
    · refine .inl ⟨h.1, h.2, h2.1, h2.2, ?_⟩
      simp only [txcChannel, h, and_self, if_true]
      exact endTransmit_half (by simp [h2.1, h2.2])
    · refine .inr (.inl ⟨h.1, h.2, h2, ?_⟩)
      simp only [txcChannel, h, and_self, if_true]
      exact endTransmit_full (by simpa using h2)
  · exact .inr (.inr ⟨h, by simp [txcChannel, h]⟩)

/-- What `FG.READ` does when it does not fault. -/
theorem readChannel_ok {p : Params} {c c' : Channel} {r : Resp} (h : readChannel p c = .ok (c', r)) :
    (c.rx.count = 0 ∧ c' = c ∧ r = 0) ∨
      (c.rx.count ≠ 0 ∧ ∃ v, c.rx.storage.read c.rx.tail = some v ∧ r = respRead (some v) ∧
        c' = { c with rx := { c.rx with tail := (c.rx.tail + 1) % p.nRx, count := c.rx.count - 1 } }) := by
  unfold readChannel at h
  split at h
  · cases h
  · next q rx hp =>
    cases h
    rcases pop_ok hp with ⟨h0, rfl, rfl⟩ | ⟨h0, v, hv, rfl, rfl⟩
    · exact .inl ⟨h0, rfl, rfl⟩
    · exact .inr ⟨h0, v, hv, rfl, rfl⟩

/-- What `PER.LOAD` does when it is enabled. -/
theorem loadChannel_some {c c' : Channel} (h : loadChannel c = some c') :
    ∃ b, c.txdr = some b ∧ c.txsr = none ∧ c' = { c with txsr := some b, txdr := none } := by
  unfold loadChannel at h
  split at h
  · next b h1 h2 => cases h; exact ⟨b, h1, h2, rfl⟩
  · cases h

/-- What `PER.SHIFTDONE` does when it is enabled. -/
theorem shiftdoneChannel_some {depth : Nat} {c c' : Channel} {echo : Bool} {err : Tag}
    (h : shiftdoneChannel depth c echo err = some c') :
    ∃ b, c.txsr = some b ∧
      c' = { c with
        wire := c.wire ++ [b]
        txsr := none
        rxhold := if echo = true ∧ c.rxhold.length < depth then c.rxhold ++ [mkFrame err b] else c.rxhold
        txc := if c.txdr = none then true else c.txc } := by
  unfold shiftdoneChannel at h
  split at h
  · cases h
  · next b hb =>
    cases h
    refine ⟨b, hb, ?_⟩
    cases echo <;> cases hd : c.txdr <;> by_cases hl : c.rxhold.length < depth <;> simp [receiveFrame, hl]

end Sys2Proof.Machine
end

