-- ==== Sys2Proof/Laws/Encoding.lean ====
section
/-! SUPPORT. The word layout: how masks act on it, and which must-be-zero bits each operand format leaves zero. -/

namespace Sys2Proof

/-! ### Bytes of a word (R42) -/

theorem wordBytes_length (n w : Nat) : (wordBytes n w).length = n := by
  induction n generalizing w with
  | zero => rfl
  | succ n ih => simp [wordBytes, ih]

/-- Byte `k` of a word's byte form is its `k`-th byte from the low end. -/
theorem wordBytes_getElem? {n k : Nat} (w : Nat) (h : k < n) : (wordBytes n w)[k]? = some (BitVec.ofNat 8 (w / 256 ^ k)) := by
  induction n generalizing w k with
  | zero => omega
  | succ n ih =>
    cases k with
    | zero => simp [wordBytes]
    | succ k => simp [wordBytes, ih (w / 256) (Nat.lt_of_succ_lt_succ h), Nat.div_div_eq_div_mul, Nat.pow_succ']

/-- The bytes of a word give back its low bytes' value. -/
theorem bytesValue_wordBytes (n w : Nat) : bytesValue (wordBytes n w) = w % 256 ^ n := by
  induction n generalizing w with
  | zero => simp [wordBytes, bytesValue, Nat.mod_one]
  | succ n ih => simp [wordBytes, bytesValue, ih, Nat.pow_succ', Nat.mod_mul]

/-! ### Masks -/

/-- `and` acts on each field of a word. -/
theorem layout_and (cls op ch cls' op' ch' : BitVec 4) (p p' : BitVec 52) :
    layout cls op ch p &&& layout cls' op' ch' p' = layout (cls &&& cls') (op &&& op') (ch &&& ch') (p &&& p') :=
  (BitVec.and_append (x₁ := cls ++ op ++ ch) (x₂ := cls' ++ op' ++ ch') (y₁ := p) (y₂ := p')).trans
    (by rw [BitVec.and_append, BitVec.and_append]; rfl)

/-- A mask that covers class and operation, leaves the channel free and keeps `m` of the operand bits. -/
theorem layout_and_mask (cls op ch : BitVec 4) (p m : BitVec 52) (h : p &&& m = 0) :
    layout cls op ch p &&& layout 0xF 0xF 0 m = layout cls op 0 0 := by
  have hF : (0xF : BitVec 4) = BitVec.allOnes 4 := rfl
  have h0 : ch &&& (0 : BitVec 4) = 0 := BitVec.and_zero
  rw [layout_and, h, h0, hF, BitVec.and_allOnes, BitVec.and_allOnes]

theorem maskZ_eq : maskZ = layout 0xF 0xF 0 (BitVec.allOnes 52) := by decide
theorem maskI_eq : maskI = layout 0xF 0xF 0 0 := by decide
theorem maskF_eq : maskF = layout 0xF 0xF 0 (BitVec.allOnes 51 ++ 0#1 : BitVec (51 + 1)) := by decide
theorem maskD_eq : maskD = layout 0xF 0xF 0 (BitVec.allOnes 43 ++ 0#1 ++ 0#8 : BitVec (43 + 1 + 8)) := by decide
theorem maskR_eq : maskR = layout 0xF 0xF 0 (BitVec.allOnes 41 ++ 0#3 ++ 0#8 : BitVec (41 + 3 + 8)) := by decide
theorem maskS_eq : maskS =
    layout 0xF 0xF 0 (BitVec.allOnes 35 ++ 0#1 ++ BitVec.allOnes 5 ++ 0#3 ++ BitVec.allOnes 8 : BitVec (35 + 1 + 5 + 3 + 8)) := by
  decide

theorem operandsF_and (f : Bool) : operandsF f &&& (BitVec.allOnes 51 ++ 0#1 : BitVec (51 + 1)) = 0 := by
  refine BitVec.and_append.trans ?_
  simp

theorem operandsD_and (nb : Bool) (data : Byte) :
    operandsD nb data &&& (BitVec.allOnes 43 ++ 0#1 ++ 0#8 : BitVec (43 + 1 + 8)) = 0 := by
  refine BitVec.and_append.trans ?_
  rw [BitVec.and_append]
  simp

theorem operandsR_and (err : Tag) (data : Byte) :
    operandsR err data &&& (BitVec.allOnes 41 ++ 0#3 ++ 0#8 : BitVec (41 + 3 + 8)) = 0 := by
  refine BitVec.and_append.trans ?_
  rw [BitVec.and_append]
  simp

theorem operandsS_and (echo : Bool) (err : Tag) : operandsS echo err &&&
    (BitVec.allOnes 35 ++ 0#1 ++ BitVec.allOnes 5 ++ 0#3 ++ BitVec.allOnes 8 : BitVec (35 + 1 + 5 + 3 + 8)) = 0 := by
  refine BitVec.and_append.trans ?_
  rw [BitVec.and_append, BitVec.and_append, BitVec.and_append]
  simp

/-- A word of format `Z` under its mask. -/
theorem layout_maskZ (cls op ch : BitVec 4) : layout cls op ch 0 &&& maskZ = layout cls op 0 0 :=
  by rw [maskZ_eq]; exact layout_and_mask cls op ch 0 _ (by simp)

/-- A word of format `F` under its mask. -/
theorem layout_maskF (cls op ch : BitVec 4) (f : Bool) : layout cls op ch (operandsF f) &&& maskF = layout cls op 0 0 :=
  by rw [maskF_eq]; exact layout_and_mask cls op ch _ _ (operandsF_and f)

/-- A word of format `D` under its mask. -/
theorem layout_maskD (cls op ch : BitVec 4) (nb : Bool) (data : Byte) :
    layout cls op ch (operandsD nb data) &&& maskD = layout cls op 0 0 :=
  by rw [maskD_eq]; exact layout_and_mask cls op ch _ _ (operandsD_and nb data)

/-- A word of format `R` under its mask. -/
theorem layout_maskR (cls op ch : BitVec 4) (err : Tag) (data : Byte) :
    layout cls op ch (operandsR err data) &&& maskR = layout cls op 0 0 :=
  by rw [maskR_eq]; exact layout_and_mask cls op ch _ _ (operandsR_and err data)

/-- A word of format `S` under its mask. -/
theorem layout_maskS (cls op ch : BitVec 4) (echo : Bool) (err : Tag) :
    layout cls op ch (operandsS echo err) &&& maskS = layout cls op 0 0 :=
  by rw [maskS_eq]; exact layout_and_mask cls op ch _ _ (operandsS_and echo err)

/-- A word of format `I` under its mask. -/
theorem layout_maskI (cls op ch : BitVec 4) (p : BitVec 52) : layout cls op ch p &&& maskI = layout cls op 0 0 :=
  by rw [maskI_eq]; exact layout_and_mask cls op ch p 0 (by simp)

end Sys2Proof
end

