-- ==== Sys2Proof/Laws/PerInstr.lean ====
section
/-! SUPPORT. The family EncodesItsRow: the word of an instruction lies in the row of the opcode map (R63) that has the
instruction's mnemonic. -/

namespace Sys2Proof.Laws.EncodesItsRow

open Sys2Proof

/-- Some row of the opcode map has the instruction's mnemonic and matches its word. -/
def Statement (i : Instr) : Prop := ∃ r ∈ opcodeTable, r.mnemonic = i.mnemonic ∧ r.Matches (encode i)

/-- A row of the opcode map whose mask takes the word to its pattern proves the statement. -/
theorem of_row {i : Instr} (r : Row) (hr : r ∈ opcodeTable) (hm : r.mnemonic = i.mnemonic) {p : Stimulus}
    (hw : encode i &&& r.mask = p) (hp : p = r.pattern) : Statement i := ⟨r, hr, hm, hw.trans hp⟩

theorem fgInit (ch : BitVec 4) (pmux : BitVec 4) (mode : BitVec 16) (baud : BitVec 32) : Statement (.fgInit ch pmux mode baud) :=
  of_row ⟨"FG.INIT", 0x1000000000000000, maskI⟩ (by decide) rfl (layout_maskI 1 0 ch (operandsI pmux mode baud)) (by decide)

theorem fgStart (ch : BitVec 4) (f : Bool) : Statement (.fgStart ch f) :=
  of_row ⟨"FG.START", 0x1100000000000000, maskF⟩ (by decide) rfl (layout_maskF 1 1 ch f) (by decide)

theorem fgStop (ch : BitVec 4) (f : Bool) : Statement (.fgStop ch f) :=
  of_row ⟨"FG.STOP", 0x1200000000000000, maskF⟩ (by decide) rfl (layout_maskF 1 2 ch f) (by decide)

theorem fgWrite (ch : BitVec 4) (nb : Bool) (data : Byte) : Statement (.fgWrite ch nb data) :=
  of_row ⟨"FG.WRITE", 0x1300000000000000, maskD⟩ (by decide) rfl (layout_maskD 1 3 ch nb data) (by decide)

theorem fgRead (ch : BitVec 4) : Statement (.fgRead ch) :=
  of_row ⟨"FG.READ", 0x1400000000000000, maskZ⟩ (by decide) rfl (layout_maskZ 1 4 ch) (by decide)

theorem fgAvail (ch : BitVec 4) : Statement (.fgAvail ch) :=
  of_row ⟨"FG.AVAIL", 0x1500000000000000, maskZ⟩ (by decide) rfl (layout_maskZ 1 5 ch) (by decide)

theorem fgFree (ch : BitVec 4) : Statement (.fgFree ch) :=
  of_row ⟨"FG.FREE", 0x1600000000000000, maskZ⟩ (by decide) rfl (layout_maskZ 1 6 ch) (by decide)

theorem fgFlush (ch : BitVec 4) : Statement (.fgFlush ch) :=
  of_row ⟨"FG.FLUSH", 0x1700000000000000, maskZ⟩ (by decide) rfl (layout_maskZ 1 7 ch) (by decide)

theorem fgStatus (ch : BitVec 4) : Statement (.fgStatus ch) :=
  of_row ⟨"FG.STATUS", 0x1800000000000000, maskZ⟩ (by decide) rfl (layout_maskZ 1 8 ch) (by decide)

theorem isrDre (ch : BitVec 4) : Statement (.isrDre ch) :=
  of_row ⟨"ISR.DRE", 0x2000000000000000, maskZ⟩ (by decide) rfl (layout_maskZ 2 0 ch) (by decide)

theorem isrRxc (ch : BitVec 4) : Statement (.isrRxc ch) :=
  of_row ⟨"ISR.RXC", 0x2100000000000000, maskZ⟩ (by decide) rfl (layout_maskZ 2 1 ch) (by decide)

theorem isrTxc (ch : BitVec 4) : Statement (.isrTxc ch) :=
  of_row ⟨"ISR.TXC", 0x2200000000000000, maskZ⟩ (by decide) rfl (layout_maskZ 2 2 ch) (by decide)

theorem perRxframe (ch : BitVec 4) (err : Tag) (data : Byte) : Statement (.perRxframe ch err data) :=
  of_row ⟨"PER.RXFRAME", 0x3000000000000000, maskR⟩ (by decide) rfl (layout_maskR 3 0 ch err data) (by decide)

theorem perLoad (ch : BitVec 4) : Statement (.perLoad ch) :=
  of_row ⟨"PER.LOAD", 0x3100000000000000, maskZ⟩ (by decide) rfl (layout_maskZ 3 1 ch) (by decide)

theorem perShiftdone (ch : BitVec 4) (echo : Bool) (err : Tag) : Statement (.perShiftdone ch echo err) :=
  of_row ⟨"PER.SHIFTDONE", 0x3200000000000000, maskS⟩ (by decide) rfl (layout_maskS 3 2 ch echo err) (by decide)

end Sys2Proof.Laws.EncodesItsRow
end

