-- ==== Sys2Proof/Tests/Slice0.lean ====
section
/-! SUPPORT. Tests of one step each and words of the encoding, with the expected results of 95_test_vectors.md (vector names in
the comments), the well-formedness smoke, and for every obligation that has hypotheses a witness that meets them. -/

namespace Sys2Proof.Tests

open Sys2Proof.Machine

/-! ### Helpers -/

/-- A channel after reset. -/
def fresh : Channel := Channel.reset Latches.zero

/-- The build of reset with the given channel 0, outstanding command and schedule. -/
def st (c : Channel) (h : Option HeldCmd := none) (q : List Stimulus := []) : State :=
  { State.reset with chans := c :: List.replicate 5 fresh, held := h, stimuli := q }

/-- As `st`, in a build that supports every pair of baud and frame but `(1, 0)` (F3, F4). -/
def picky (c : Channel) : State := { st c with par := { Config.resetParams with unsupported := [(1, 0)] } }

/-- Channel 0 after a step. -/
def after : Result → Option Channel
  | .next t => t.chan? 0
  | _ => none

/-- The response of a step. -/
def answer : Result → Option Resp
  | .next t => t.resp
  | _ => none

/-- `{h t c o}` of a buffer. -/
def htco {w : Nat} (b : Buf w) : Nat × Nat × Nat × Bool := (b.head, b.tail, b.count, b.ovf)

/-- `IE`: `DREIE RXCIE TXCIE`. -/
def ie (c : Channel) : Bool × Bool × Bool := (c.dreie, c.rxcie, c.txcie)

/-- A configured, stopped channel. -/
def ready : Channel := { fresh with configured := true }
/-- `MODE I`, full-duplex. -/
def idle : Channel := { ready with mode := .idle, rxcie := true, pins := true }
/-- `MODE I`, half-duplex. -/
def idleHalf : Channel := { idle with hd := true }
/-- `MODE T`, full-duplex, `TX {1 0 1 0} [33 ..]`, `IE 111`. -/
def sending : Channel := { idle with
  mode := .transmitting, dreie := true, txcie := true, tx := ⟨[(0, 0x33)], 1, 0, 1, false⟩ }
/-- `MODE T`, full-duplex, `TX {0 0 4 0} [01 02 03 04]`, `IE 111`. -/
def full : Channel := { sending with tx := ⟨[(0, 1), (1, 2), (2, 3), (3, 4)], 0, 0, 4, false⟩ }
/-- `MODE T`, full-duplex, nothing queued, `TXC 1`, `IE 011`. -/
def drained : Channel := { idle with mode := .transmitting, txcie := true, txc := true }
/-- H10: `MODE T`, half-duplex, `SKIP 1`, nothing queued, `TXC 1`, `IE 001`, an echo held. -/
def drainedHalf : Channel := { drained with hd := true, skip := true, rxcie := false, rxhold := [0x041, 0x042] }
/-- H9: `sending` with a frame held. -/
def both : Channel := { sending with rxhold := [0x044] }
/-- `MODE I` with the receive buffer full and a frame with `FE` held (H6). -/
def overrun : Channel := { idle with
  rx := ⟨[(0, 0x0A0), (1, 0x0A1), (2, 0x0A2), (3, 0x0A3)], 0, 0, 4, false⟩, rxhold := [0x2A4] }
/-- `MODE I` with two unread elements, the second with `PE`. -/
def unread : Channel := { idle with rx := ⟨[(0, 0x010), (1, 0x120)], 2, 0, 2, false⟩ }
/-- `MODE T`, a byte in the shifter and one waiting. -/
def shifting : Channel := { drained with txc := false, txsr := some 0x41, txdr := some 0x42 }

/-! ### Well-formedness -/

/-- The one check: `CH < NCH` (R64 (d)); the last channel passes, the first absent one does not. -/
theorem test_wellFormed :
    (Instr.fgWrite 5 false 0x41).WellFormed 6 ∧ ¬ (Instr.fgWrite 6 false 0x41).WellFormed 6 ∧
      ¬ (Instr.isrDre 1).WellFormed 1 ∧ ¬ (Instr.perLoad 0).WellFormed 0 := by decide

/-! ### Encoding: words of 95_test_vectors.md 2.6 and part 3, and of R63 -/

theorem test_decode_fgInit :
    decode 6 0x1025800300002580 = .ok (.fgInit 2 5 0x8003 9600) ∧
      decode 6 0x105FFFFFFFFFFFFF = .ok (.fgInit 5 15 0xFFFF 0xFFFFFFFF) := by decide
theorem test_decode_fgStart : decode 6 0x1100000000000001 = .ok (.fgStart 0 true) := by decide
theorem test_decode_fgStop : decode 6 0x1210000000000001 = .ok (.fgStop 1 true) := by decide
theorem test_decode_fgWrite :
    decode 6 0x13300000000001FF = .ok (.fgWrite 3 true 0xFF) ∧
      decode 6 0x1300000000000041 = .ok (.fgWrite 0 false 0x41) := by decide
theorem test_decode_fgRead : decode 6 0x1450000000000000 = .ok (.fgRead 5) := by decide
theorem test_decode_fgAvail : decode 6 0x1500000000000000 = .ok (.fgAvail 0) := by decide
theorem test_decode_fgFree : decode 6 0x1600000000000000 = .ok (.fgFree 0) := by decide
theorem test_decode_fgFlush : decode 6 0x1700000000000000 = .ok (.fgFlush 0) := by decide
theorem test_decode_fgStatus : decode 6 0x1800000000000000 = .ok (.fgStatus 0) := by decide
theorem test_decode_isrDre : decode 6 0x2000000000000000 = .ok (.isrDre 0) := by decide
theorem test_decode_isrRxc : decode 6 0x2150000000000000 = .ok (.isrRxc 5) := by decide
theorem test_decode_isrTxc : decode 6 0x2200000000000000 = .ok (.isrTxc 0) := by decide
theorem test_decode_perRxframe : decode 6 0x30000000000002A4 = .ok (.perRxframe 0 2 0xA4) := by decide
theorem test_decode_perLoad : decode 6 0x3100000000000000 = .ok (.perLoad 0) := by decide
theorem test_decode_perShiftdone : decode 6 0x3200000000010100 = .ok (.perShiftdone 0 true 1) := by decide

/-- Words written out bit by bit from the field table of R60 and the formats of R61. -/
theorem test_decode_bits :
    decode 6 (0b0001#4 ++ 0b0010#4 ++ 0b0001#4 ++ 0#51 ++ 1#1 : BitVec (4 + 4 + 4 + 51 + 1)) = .ok (.fgStop 1 true) ∧
      decode 6 (0b0010#4 ++ 0b0001#4 ++ 0b0011#4 ++ 0#52 : BitVec (4 + 4 + 4 + 52)) = .ok (.isrRxc 3) ∧
      decode 6 (0b0011#4 ++ 0b0010#4 ++ 0b0100#4 ++ 0#35 ++ 1#1 ++ 0#5 ++ 0b100#3 ++ 0#8 : BitVec (4 + 4 + 4 + 35 + 1 + 5 + 3 + 8)) =
        .ok (.perShiftdone 4 true 4) := by decide

/-- Illegal words, by the first clause of R64 that applies. -/
theorem test_illegal_class : decode 6 0 = .error .badClass ∧ decode 6 0x4000000000000000 = .error .badClass := by decide
theorem test_illegal_op :
    decode 6 0x1900000000000000 = .error .badOp ∧ decode 6 0x1F00000000000000 = .error .badOp ∧
      decode 6 0x2300000000000000 = .error .badOp ∧ decode 6 0x3300000000000000 = .error .badOp := by decide
theorem test_illegal_bits :
    decode 6 0x1400000000000001 = .error .reservedBits ∧ decode 6 0x1100000000000002 = .error .reservedBits ∧
      decode 6 0x1301000000000041 = .error .reservedBits ∧ decode 6 0x3200000000000001 = .error .reservedBits ∧
      decode 6 0x3200000000020000 = .error .reservedBits ∧ decode 6 0x2000000100000000 = .error .reservedBits := by decide
theorem test_illegal_channel :
    decode 6 0x1360000000000041 = .error .absentChannel ∧ decode 1 0x1310000000000041 = .error .absentChannel ∧
      decode 0 0x1300000000000041 = .error .absentChannel := by decide

/-- Mask check of 2.6: the match bits of every row are covered by its mask, and no class and operation is used twice. -/
theorem test_masks :
    (∀ r ∈ opcodeTable, r.pattern &&& ~~~r.mask = 0) ∧
      (opcodeTable.map fun r => r.pattern.extractLsb' 56 8).Nodup := by decide

/-- The word of a byte stream is little-endian (R42), and a short stream is no word (R68). -/
theorem test_bytes :
    decodeBytes 6 [0x00, 0x01, 0x01, 0x00, 0x00, 0x00, 0x00, 0x32, 0xAA] = .ok (.perShiftdone 0 true 1, [0xAA]) ∧
      decodeBytes 6 [0x00, 0x01, 0x01, 0x00, 0x00, 0x00, 0x00] = .error .truncated := by decide

/-- R42 on the response of F25: `0x000A` is stored low byte first, and `0x8120` of P2 step 21 reads back. -/
theorem test_response_bytes :
    respBytes 0x000A = [0x0A, 0x00] ∧ respBytes 0x8120 = [0x20, 0x81] ∧
      readResp [0x20, 0x81, 0xAA] = some (0x8120, [0xAA]) ∧ readResp [0x20] = none := by decide

/-- A row's word through the host's entry, and the first step after reset runs it. -/
theorem test_table_word : decodeTableWord 64 0x1025800300002580 = some (.fgInit 2 5 0x8003 9600) := by decide
theorem test_first_step :
    (answer (step (State.reset.withFetchWord 64 0x1600000000000000)) = some 0x0004) ∧
      step (State.reset.withFetchWord 64 0x2000000000000000) = .refused (.notPending .dre) := ⟨by decide, rfl⟩

/-- Assembly of R66 and R67, with symbols, numbers, omitted operands and a comment; the two lines outside the syntax are
assumption 24's. -/
theorem test_assemble :
    assemble ["FG.INIT 0, 115200, FD, 1 ; P2".toList, "EV.TXC 0, 1, PE".toList, "FG.WRITENB 3, 0xFF".toList] =
        some [0x100100000001C200, 0x3200000000010100, 0x2200000000000000, 0x13300000000001FF] ∧
      assemble ["FG.READ 16".toList] = none ∧ assemble ["FG.WRITE 0, 0x4_1".toList] = none := by decide

/-! ### One step of each instruction -/

/-- F1. -/
theorem test_fgInit_half :
    answer (exec (.fgInit 0 0 0x8000 9600) (st fresh)) = some 1 ∧
      (after (exec (.fgInit 0 0 0x8000 9600) (st fresh))).map (fun c => (c.mode, c.hd, ie c, c.pins)) =
        some (.idle, true, (false, true, false), true) := by decide
/-- F4: a failed init on a running channel stops it and keeps the rest. -/
theorem test_fgInit_fails :
    answer (exec (.fgInit 0 0 0 1) (picky sending)) = some 0 ∧
      after (exec (.fgInit 0 0 0 1) (picky sending)) =
        some { sending with mode := .stopped, dreie := false, rxcie := false, txcie := false } := by decide
/-- M2, F7. -/
theorem test_fgStart :
    (after (exec (.fgStart 0 true) (st { ready with rx := ⟨[(0, 1), (1, 2)], 2, 0, 2, true⟩ }))).map (fun c => (c.mode, c.pins)) =
        some (.idle, true) ∧
      (after (exec (.fgStart 0 true) (st { ready with rx := ⟨[(0, 1), (1, 2)], 2, 0, 2, true⟩ }))).map (fun c => htco c.rx) =
        some (0, 0, 0, false) := by decide
/-- M11, M12: a no-op on a running and on an unconfigured channel. -/
theorem test_fgStart_noop :
    after (exec (.fgStart 0 true) (st { idle with pins := false })) = some { idle with pins := false } ∧
      after (exec (.fgStart 0 true) (st fresh)) = some fresh := by decide
/-- M8: both buffers kept. -/
theorem test_fgStop :
    after (exec (.fgStop 0 false) (st full)) =
      some { full with mode := .stopped, dreie := false, rxcie := false, txcie := false } := by decide
/-- F9: pins released. -/
theorem test_fgStop_releases : (after (exec (.fgStop 0 true) (st sending))).map (fun c => (c.pins, ie c)) =
    some (false, (false, false, false)) := by decide
/-- M4: the transition T2 on a half-duplex channel. -/
theorem test_fgWrite_half :
    (after (exec (.fgWrite 0 false 0x41) (st idleHalf))).map (fun c => (c.mode, ie c, c.skip, c.tx)) =
      some (.transmitting, (true, false, true), true, ⟨[(0, 0x41)], 1, 0, 1, false⟩) := by decide
/-- F11, F13: refused, and held. -/
theorem test_fgWrite_full :
    (after (exec (.fgWrite 0 true 5) (st full))).map (fun c => htco c.tx) = some (0, 0, 4, true) ∧
      exec (.fgWrite 0 false 5) (st full) = .next (st full (some (.write 0 5))) := ⟨by decide, rfl⟩
/-- F18. -/
theorem test_fgRead_tags : answer (exec (.fgRead 0) (st { idle with rx := ⟨[(3, 0x7FF)], 0, 3, 1, false⟩ })) = some 0x87FF := by
  decide
/-- F16, F17: empty differs from a zero byte. -/
theorem test_fgRead_zero :
    answer (exec (.fgRead 0) (st idle)) = some 0 ∧
      answer (exec (.fgRead 0) (st { idle with rx := ⟨[(0, 0)], 1, 0, 1, false⟩ })) = some 0x8000 := by decide
/-- F19. -/
theorem test_fgAvail : answer (exec (.fgAvail 0) (st overrun)) = some 4 := by decide
theorem test_fgFree : answer (exec (.fgFree 0) (st full)) = some 0 ∧ answer (exec (.fgFree 0) (st sending)) = some 3 := by decide
/-- F20, F24: at once. -/
theorem test_fgFlush_returns :
    answer (exec (.fgFlush 0) (st fresh)) = some 0 ∧
      answer (exec (.fgFlush 0) (st { full with mode := .stopped })) = some 0 := by decide
/-- F23: held although nothing is queued. -/
theorem test_fgFlush_held : exec (.fgFlush 0) (st drained) = .next (st drained (some (.flush 0))) := rfl
/-- F25. -/
theorem test_fgStatus :
    answer (exec (.fgStatus 0) (st { idle with errs := 2, rx := { idle.rx with ovf := true } })) = some 0x000A ∧
      after (exec (.fgStatus 0) (st { idle with errs := 2, rx := { idle.rx with ovf := true } })) = some idle := by decide
/-- F26. -/
theorem test_fgStatus_all :
    answer (exec (.fgStatus 0) (st { idle with
      errs := 7, rx := { idle.rx with ovf := true }, tx := { idle.tx with ovf := true } })) = some 0x001F := by decide
/-- H1: one byte per run. -/
theorem test_isrDre_more :
    (after (exec (.isrDre 0) (st { sending with tx := ⟨[(0, 0x41), (1, 0x42)], 2, 0, 2, false⟩ }))).map
      (fun c => (htco c.tx, c.txdr, c.dreie)) = some ((2, 1, 1, false), some 0x41, true) := by decide
/-- H3: the last byte disables the source and the write clears `TXC`. -/
theorem test_isrDre_last :
    (after (exec (.isrDre 0) (st { sending with txc := true }))).map (fun c => (c.txdr, c.dreie, c.txc)) =
      some (some 0x33, false, false) := by decide
/-- H6: the newest is dropped, the error still recorded. -/
theorem test_isrRxc_full :
    (after (exec (.isrRxc 0) (st overrun))).map (fun c => (c.rx, c.rxhold, c.errs)) =
      some ({ overrun.rx with ovf := true }, [], 2) := by decide
/-- H7: one frame per run. -/
theorem test_isrRxc_one :
    (after (exec (.isrRxc 0) (st { idle with rxhold := [0x0AA, 0x4BB] }))).map (fun c => (c.rx.storage, c.rxhold)) =
      some ([(0, 0x0AA)], [0x4BB]) := by decide
/-- H10. -/
theorem test_isrTxc_half :
    (after (exec (.isrTxc 0) (st drainedHalf))).map (fun c => (c.mode, ie c, c.skip, c.rxhold, c.txc)) =
      some (.idle, (false, true, false), false, [], false) := by decide
/-- H13: bytes queued meanwhile. -/
theorem test_isrTxc_more : after (exec (.isrTxc 0) (st { sending with txc := true })) = some sending := by decide
/-- E1. -/
theorem test_perRxframe : (after (exec (.perRxframe 0 2 0xA4) (st fresh))).map (·.rxhold) = some [0x2A4] := by decide
/-- E2: lost without a mark. -/
theorem test_perRxframe_lost :
    after (exec (.perRxframe 0 0 3) (st { idle with rxhold := [1, 2] })) = some { idle with rxhold := [1, 2] } := by decide
/-- E4, E6. -/
theorem test_perLoad :
    (after (exec (.perLoad 0) (st { sending with txdr := some 0x41 }))).map (fun c => (c.txdr, c.txsr)) = some (none, some 0x41) ∧
      exec (.perLoad 0) (st shifting) = .refused .loadNotEnabled := ⟨by decide, rfl⟩
/-- E7: a byte waits, so `TXC` is not set. -/
theorem test_perShiftdone_more :
    (after (exec (.perShiftdone 0 false 0) (st shifting))).map (fun c => (c.wire, c.txsr, c.txc)) =
      some ([0x41], none, false) := by decide
/-- E9. -/
theorem test_perShiftdone_echo :
    (after (exec (.perShiftdone 0 true 1) (st { shifting with txdr := none, txsr := some 0x20 }))).map
      (fun c => (c.rxhold, c.txc)) = some ([0x120], true) := by decide

/-- B6, B7, B14: the wrap into full, the refused push, and `clear` of an empty buffer. -/
theorem test_push_wraps :
    push 4 ⟨[(1, 0x21), (2, 0x22), (3, 0x5A)], 0, 1, 3, false⟩ 0x5B#8 =
        (⟨[(0, 0x5B), (1, 0x21), (2, 0x22), (3, 0x5A)], 1, 1, 4, false⟩, true) ∧
      push 4 ⟨[(0, 0x5B), (1, 0x21), (2, 0x22), (3, 0x5A)], 1, 1, 4, false⟩ 0x5C#8 =
        (⟨[(0, 0x5B), (1, 0x21), (2, 0x22), (3, 0x5A)], 1, 1, 4, true⟩, false) ∧
      clear (⟨[], 3, 3, 0, false⟩ : Buf 8) = ⟨[], 0, 0, 0, false⟩ := by decide

/-! ### States of the invariant -/

theorem fresh_inv : fresh.Inv Config.resetParams := by
  refine ⟨?_, ?_, ?_, ?_, ?_, ?_, ?_, ?_, ?_, ?_, ?_⟩ <;> first | decide | exact ⟨by decide, by decide, by decide, by decide, by decide, by decide⟩
theorem idle_inv : idle.Inv Config.resetParams := by
  refine ⟨?_, ?_, ?_, ?_, ?_, ?_, ?_, ?_, ?_, ?_, ?_⟩ <;> first | decide | exact ⟨by decide, by decide, by decide, by decide, by decide, by decide⟩
theorem full_inv : full.Inv Config.resetParams := by
  refine ⟨?_, ?_, ?_, ?_, ?_, ?_, ?_, ?_, ?_, ?_, ?_⟩ <;> first | decide | exact ⟨by decide, by decide, by decide, by decide, by decide, by decide⟩
theorem drained_inv : drained.Inv Config.resetParams := by
  refine ⟨?_, ?_, ?_, ?_, ?_, ?_, ?_, ?_, ?_, ?_, ?_⟩ <;> first | decide | exact ⟨by decide, by decide, by decide, by decide, by decide, by decide⟩
theorem both_inv : both.Inv Config.resetParams := by
  refine ⟨?_, ?_, ?_, ?_, ?_, ?_, ?_, ?_, ?_, ?_, ?_⟩ <;> first | decide | exact ⟨by decide, by decide, by decide, by decide, by decide, by decide⟩
theorem overrun_inv : overrun.Inv Config.resetParams := by
  refine ⟨?_, ?_, ?_, ?_, ?_, ?_, ?_, ?_, ?_, ?_, ?_⟩ <;> first | decide | exact ⟨by decide, by decide, by decide, by decide, by decide, by decide⟩

/-- A state built on a channel of the invariant meets the block's invariant. -/
theorem st_inv {c : Channel} {h : Option HeldCmd} {q : List Stimulus} (hc : c.Inv Config.resetParams)
    (hh : ∀ cmd, h = some cmd → heldCh cmd = 0 ∧ c.mode ≠ .stopped) : (st c h q).Inv where
  params := (by decide : Config.resetParams.Admissible)
  channels := (by decide : (6 : Nat) ≤ maxChannels)
  chan := by
    intro d hd
    rcases List.mem_cons.mp hd with rfl | hd
    · exact hc
    · obtain rfl := List.eq_of_mem_replicate hd
      exact fresh_inv
  held := by
    intro cmd hcmd
    obtain ⟨h0, hm⟩ := hh cmd hcmd
    exact ⟨c, by rw [h0]; rfl, hm⟩

/-- With no command outstanding. -/
theorem st_inv_free {c : Channel} {q : List Stimulus} (hc : c.Inv Config.resetParams) : (st c none q).Inv :=
  st_inv hc fun _ h => nomatch h

/-- No command is outstanding, so none is ready. -/
theorem st_notReady (c : Channel) (q : List Stimulus) : NotReady (st c none q) := fun _ h => nomatch h

/-! ### Witnesses: concrete states and operands that meet the hypotheses of each obligation, one per clause -/

/-- Instruction `i` gives a next state from `s`, the channel it names has a record before and after, and `P` holds of the
next state and the two records: the hypotheses most statements share. -/
def Moves (i : Instr) (s : State) (P : State → Channel → Channel → Prop) : Prop :=
  ∃ t c c', exec i s = .next t ∧ s.chan? i.ch = some c ∧ t.chan? i.ch = some c' ∧ P t c c'

/-- One instruction of each of the fifteen rows on channel `ch`. -/
def oneOfEach (ch : BitVec 4) : List Instr :=
  [.fgInit ch 15 0xFFFF 0xFFFFFFFF, .fgStart ch true, .fgStop ch true, .fgWrite ch true 0xFF, .fgRead ch, .fgAvail ch,
   .fgFree ch, .fgFlush ch, .fgStatus ch, .isrDre ch, .isrRxc ch, .isrTxc ch, .perRxframe ch 7 0xFF, .perLoad ch,
   .perShiftdone ch true 7]

theorem witness_DecodeOfEncodeGivesTheInstruction : ∀ i ∈ oneOfEach 5, i.WellFormed 6 := by decide

theorem witness_EncodeOfDecodeGivesTheWord :
    decode 6 0x105FFFFFFFFFFFFF = .ok (.fgInit 5 15 0xFFFF 0xFFFFFFFF) ∧
      decode 6 0x3250000000010700 = .ok (.perShiftdone 5 true 7) := by decide

theorem witness_DecoderAgreesWithTheOpcodeMap :
    (⟨"FG.INIT", 0x1000000000000000, maskI⟩ : Row) ∈ opcodeTable ∧
      (⟨"PER.SHIFTDONE", 0x3200000000000000, maskS⟩ : Row) ∈ opcodeTable := by decide

theorem witness_IllegalWordsAreRefusedByTheFirstClause :
    NotReady (st fresh none [0x0F00000000000001]) ∧
      decode (st fresh).chans.length 0x0F00000000000001 = .error .badClass ∧
      decode (st fresh).chans.length 0x1960000000000000 = .error .badOp ∧
      decode (st fresh).chans.length 0x1300000000000200 = .error .reservedBits ∧
      decode (st fresh).chans.length 0x1360000000000041 = .error .absentChannel ∧
      decode (st fresh).chans.length 0x1350000000000041 = .ok (.fgWrite 5 false 0x41) :=
  ⟨st_notReady _ _, by decide⟩

theorem witness_StepRunsTheDecodedStimulus :
    NotReady (st fresh none [0x1400000000000000]) ∧
      decode (st fresh).chans.length 0x1400000000000000 = .ok (.fgRead 0) := ⟨st_notReady _ _, by decide⟩

/-- The same while a flush is held whose guard is false. -/
theorem witness_StepRunsTheDecodedStimulus_held :
    NotReady (st drained (some (.flush 0)) [0x2200000000000000]) ∧
      decode (st drained).chans.length 0x2200000000000000 = .ok (.isrTxc 0) := by
  refine ⟨?_, by decide⟩
  intro cmd h c hc hg
  cases h; cases hc
  revert hg
  simp [HeldGuard, drained]

theorem witness_HeldCommandIsPerformedOnceItsGuardIsTrue_write :
    (st sending (some (.write 0 5))).chan? (heldCh (.write 0 5)) = some sending ∧
      HeldGuard Config.resetParams { sending with tx := { sending.tx with count := 3 } } (.write 0 5) ∧
      HeldGuard Config.resetParams { full with mode := .stopped } (.write 0 5) :=
  ⟨rfl, .inr (by decide), .inl rfl⟩
theorem witness_HeldCommandIsPerformedOnceItsGuardIsTrue_flush :
    (st idle (some (.flush 0))).chan? (heldCh (.flush 0)) = some idle ∧ HeldGuard Config.resetParams idle (.flush 0) ∧
      HeldGuard Config.resetParams { full with mode := .stopped } (.flush 0) :=
  ⟨rfl, .inr (by decide), .inl rfl⟩

theorem witness_ForegroundIsRefusedWhileACommandIsHeld :
    (Instr.fgStatus 5).isForeground = true ∧ (st drained (some (.flush 0))).chan? 5 = some fresh ∧
      (st drained (some (.flush 0))).held ≠ none := by decide

theorem witness_AbsentChannelIsRefused : ∀ i ∈ oneOfEach 6 ++ oneOfEach 15, (st fresh).chans.length ≤ i.ch.toNat := by decide

theorem witness_ResetLeavesTheTableOfValues :
    (List.replicate 6 Latches.zero)[5]? = some Latches.zero ∧ [(⟨7, 8, 9⟩ : Latches)][0]? = some ⟨7, 8, 9⟩ := by decide

theorem witness_ResetMeetsTheInvariant :
    (Params.Admissible ⟨1, 1, 1, [], .portable⟩ ∧ ([] : List Latches).length ≤ maxChannels) ∧
      (Params.Admissible ⟨15, 15, 9, [(1, 0)], .tuned⟩ ∧ (List.replicate 6 Latches.zero).length ≤ maxChannels) := by decide

/-- The last clause's two cases are one step on the channel itself and one on another. -/
theorem witness_BeforeInitNothingChanges :
    { fresh with rxhold := [1, 2] }.Unstarted ∧ (st { fresh with rxhold := [1, 2] }).held = none ∧
      (∀ i ∈ oneOfEach 0, (st { fresh with rxhold := [1, 2] }).chan? i.ch = some { fresh with rxhold := [1, 2] }) ∧
      (picky fresh).par.cfgSupported 1 ((0x8000 : BitVec 16).extractLsb' 0 15) = false ∧
      fresh ∈ (State.resetOf Config.resetParams [Latches.zero]).chans ∧
      (∃ t, exec (.fgInit 0 0 0 9600) (st fresh) = .next t ∧ (st fresh).chans[0]? = some fresh) ∧
      ∃ t, exec (.isrDre 0) (st sending) = .next t ∧ (st sending).chans[5]? = some fresh :=
  ⟨⟨rfl, rfl, by decide, by decide, by decide, rfl, by decide⟩, rfl, by decide, by decide, by decide, ⟨_, rfl, rfl⟩, _, rfl, rfl⟩

theorem witness_FgInitConfiguresOrFails :
    (st fresh).chan? 0 = some fresh ∧ (st fresh).held = none ∧
      (st fresh).par.cfgSupported 0xFFFFFFFF ((0xFFFF : BitVec 16).extractLsb' 0 15) = true ∧
      (picky sending).chan? 0 = some sending ∧ (picky sending).held = none ∧
      (picky sending).par.cfgSupported 1 ((0x8000 : BitVec 16).extractLsb' 0 15) = false := by decide

theorem witness_FgStartStartsAConfiguredStoppedChannel :
    ((st ready).chan? 0 = some ready ∧ (st ready).held = none ∧ ready.configured = true ∧ ready.mode = .stopped) ∧
      ((st fresh).chan? 5 = some fresh ∧ fresh.configured = false) ∧
      ((st idle).chan? 0 = some idle ∧ idle.mode ≠ .stopped) := by decide

theorem witness_FgStopStopsTheChannel : (st full).chan? 0 = some full ∧ (st full).held = none := by decide

/-- One slot free, and none used. -/
theorem witness_FgWriteEnqueuesTheByte :
    ((st idleHalf).chan? 0 = some idleHalf ∧ (st idleHalf).held = none ∧ idleHalf.mode ≠ .stopped ∧
        idleHalf.tx.count < (st idleHalf).par.nTx) ∧
      ((st sending).chan? 0 = some sending ∧ (st sending).held = none ∧ sending.mode ≠ .stopped ∧
        sending.tx.count < (st sending).par.nTx) ∧
      3 < (st sending).par.nTx := by decide

theorem witness_FgWriteWhileStoppedIsANoOp :
    (st { full with mode := .stopped }).chan? 0 = some { full with mode := .stopped } ∧
      (st { full with mode := .stopped }).held = none := by decide

theorem witness_FgWriteOnAFullBufferIsRefusedOrHeld :
    (st full).chan? 0 = some full ∧ (st full).held = none ∧ full.mode ≠ .stopped ∧ full.tx.count = (st full).par.nTx := by decide

theorem witness_FgReadDequeuesTheOldestElement :
    ((st idle).chan? 0 = some idle ∧ (st idle).held = none ∧ idle.rx.count = 0) ∧
      ((st unread).chan? 0 = some unread ∧ (st unread).held = none ∧ unread.rx.count ≠ 0 ∧
        unread.rx.storage.read unread.rx.tail = some 0x010) := by decide

theorem witness_FgAvailAndFgFreeAnswerTheCounts : (st overrun).chan? 0 = some overrun ∧ (st overrun).held = none := by decide

theorem witness_QueryAnswersAreExact :
    (st overrun).Inv ∧ (st overrun).chan? 0 = some overrun ∧ (st overrun).held = none :=
  ⟨st_inv_free overrun_inv, rfl, rfl⟩

theorem witness_FgFlushReturnsOrIsHeld :
    ((st full).chan? 0 = some full ∧ (st full).held = none ∧
        ¬ (full.mode = .stopped ∨ (full.tx.count = 0 ∧ full.mode ≠ .transmitting))) ∧
      ((st drained).chan? 0 = some drained ∧
        ¬ (drained.mode = .stopped ∨ (drained.tx.count = 0 ∧ drained.mode ≠ .transmitting))) ∧
      ((st idle).chan? 0 = some idle ∧ (idle.mode = .stopped ∨ (idle.tx.count = 0 ∧ idle.mode ≠ .transmitting))) ∧
      ((st fresh).chan? 0 = some fresh ∧ (fresh.mode = .stopped ∨ (fresh.tx.count = 0 ∧ fresh.mode ≠ .transmitting))) := by
  decide

theorem witness_FgStatusReadsAndClearsTheStickyFlags :
    (st { idle with errs := 7 }).chan? 0 = some { idle with errs := 7 } ∧ (st { idle with errs := 7 }).held = none := by decide

theorem witness_IsrDreMovesOneByte :
    ((st sending).chan? 0 = some sending ∧ sending.dreie = true ∧ sending.txdr = none ∧ sending.tx.count ≠ 0 ∧
        sending.tx.storage.read sending.tx.tail = some 0x33) ∧
      ((st full).chan? 0 = some full ∧ full.dreie = true ∧ full.txdr = none ∧ full.tx.count ≠ 0 ∧
        full.tx.storage.read full.tx.tail = some 1) ∧
      ((st { drained with dreie := true }).chan? 0 = some { drained with dreie := true } ∧ drained.txdr = none ∧
        drained.tx.count = 0) := by decide

theorem witness_IsrRxcTakesOneFrame :
    ((st both).chan? 0 = some both ∧ both.rxcie = true ∧ both.rxhold = 0x044 :: [] ∧ both.rx.count < (st both).par.nRx) ∧
      ((st overrun).chan? 0 = some overrun ∧ overrun.rxcie = true ∧ overrun.rxhold = 0x2A4 :: [] ∧
        overrun.rx.count = (st overrun).par.nRx) := by decide

theorem witness_IsrTxcEndsTheTransmission :
    ((st drainedHalf).chan? 0 = some drainedHalf ∧ drainedHalf.txcie = true ∧ drainedHalf.txc = true ∧
        drainedHalf.tx.count = 0 ∧ drainedHalf.mode = .transmitting ∧ drainedHalf.hd = true ∧ drainedHalf.skip = true) ∧
      ((st drained).chan? 0 = some drained ∧ drained.txcie = true ∧ drained.txc = true ∧ drained.tx.count = 0 ∧
        drained.mode = .transmitting ∧ drained.hd = false) ∧
      ((st { sending with txc := true }).chan? 0 = some { sending with txc := true } ∧ sending.txcie = true ∧
        sending.tx.count ≠ 0) := by decide

theorem witness_HandlersAreRefusedWhenNotPending :
    ((st fresh).chan? 0 = some fresh ∧ fresh.dreie = false ∧ fresh.rxcie = false ∧ fresh.txcie = false) ∧
      ((st shifting).chan? 0 = some shifting ∧ shifting.txdr ≠ none ∧ shifting.rxhold = [] ∧ shifting.txc = false) := by decide

theorem witness_HandlerRunsExactlyWhenPending : (st both).Inv ∧ (st both).chan? 0 = some both := ⟨st_inv_free both_inv, rfl⟩

theorem witness_DreIsNotPendingAfterItsHandler :
    ∃ t c, exec (.isrDre 0) (st full) = .next t ∧ t.chan? 0 = some c := ⟨_, _, rfl, rfl⟩

/-- One place left, and none. -/
theorem witness_PerRxframeHoldsOrLosesTheFrame :
    ((st both).chan? 0 = some both ∧ both.rxhold.length < (st both).par.hwRxDepth) ∧
      ((st drainedHalf).chan? 0 = some drainedHalf ∧ (st drainedHalf).par.hwRxDepth ≤ drainedHalf.rxhold.length) := by decide

theorem witness_PerLoadMovesTheByteToTheShifter :
    ((st { shifting with txsr := none }).chan? 0 = some { shifting with txsr := none } ∧ shifting.txdr = some 0x42) ∧
      ((st shifting).chan? 0 = some shifting ∧ shifting.txsr ≠ none) ∧ ((st fresh).chan? 0 = some fresh ∧ fresh.txdr = none) := by
  decide

theorem witness_PerShiftdonePutsTheByteOnTheWire :
    ((st shifting).chan? 0 = some shifting ∧ shifting.txsr = some 0x41) ∧ ((st fresh).chan? 0 = some fresh ∧ fresh.txsr = none) := by
  decide

theorem witness_StepWritesOnlyItsOwnChannel : ∃ t, exec (.fgWrite 0 false 1) (st idle) = .next t := ⟨_, rfl⟩

theorem witness_StepReadsOnlyItsOwnChannel :
    (st idle).par = State.par { st idle with chans := [idle, both] } ∧
      (st idle).held = State.held { st idle with chans := [idle, both] } ∧
      (st idle).chan? 0 = State.chan? { st idle with chans := [idle, both] } 0 := by decide

theorem witness_FrameOfInitStartStop :
    Moves (.fgInit 0 1 0x8000 9600) (st sending) (fun _ _ _ => True) ∧ Moves (.fgStart 0 true) (st ready) (fun _ _ _ => True) ∧
      Moves (.fgStop 0 true) (st full) (fun _ _ _ => True) :=
  ⟨⟨_, _, _, rfl, rfl, rfl, trivial⟩, ⟨_, _, _, rfl, rfl, rfl, trivial⟩, ⟨_, _, _, rfl, rfl, rfl, trivial⟩⟩

theorem witness_FrameOfWrite :
    Moves (.fgWrite 0 false 5) (st sending) (fun t _ _ => t.resp = some 0x0001) ∧
      Moves (.fgWrite 0 true 5) (st full) (fun t _ _ => t.resp ≠ some 0x0001) ∧
      Moves (.fgWrite 0 false 5) (st { full with mode := .stopped }) (fun t _ _ => t.resp ≠ some 0x0001) ∧
      Moves (.fgWrite 0 false 5) (st full) (fun t _ _ => t.resp ≠ some 0x0001 ∧ t.held = some (.write 0 5)) :=
  ⟨⟨_, _, _, rfl, rfl, rfl, rfl⟩, ⟨_, _, _, rfl, rfl, rfl, by decide⟩, ⟨_, _, _, rfl, rfl, rfl, by decide⟩,
    ⟨_, _, _, rfl, rfl, rfl, by decide, rfl⟩⟩

theorem witness_FrameOfReadAndQueries :
    Moves (.fgRead 0) (st unread) (fun _ _ _ => True) ∧ Moves (.fgStatus 0) (st overrun) (fun _ _ _ => True) ∧
      Moves (.fgAvail 0) (st unread) (fun _ _ _ => True) ∧ Moves (.fgFree 0) (st full) (fun _ _ _ => True) ∧
      Moves (.fgFlush 0) (st full) (fun _ _ _ => True) :=
  ⟨⟨_, _, _, rfl, rfl, rfl, trivial⟩, ⟨_, _, _, rfl, rfl, rfl, trivial⟩, ⟨_, _, _, rfl, rfl, rfl, trivial⟩,
    ⟨_, _, _, rfl, rfl, rfl, trivial⟩, ⟨_, _, _, rfl, rfl, rfl, trivial⟩⟩

theorem witness_FrameOfHandlers :
    Moves (.isrDre 0) (st full) (fun _ _ _ => True) ∧ Moves (.isrRxc 0) (st both) (fun _ _ _ => True) ∧
      Moves (.isrRxc 0) (st overrun) (fun _ c _ => c.rx.count = (st overrun).par.nRx) ∧
      Moves (.isrTxc 0) (st drainedHalf) (fun _ _ _ => True) :=
  ⟨⟨_, _, _, rfl, rfl, rfl, trivial⟩, ⟨_, _, _, rfl, rfl, rfl, trivial⟩, ⟨_, _, _, rfl, rfl, rfl, rfl⟩,
    ⟨_, _, _, rfl, rfl, rfl, trivial⟩⟩

theorem witness_FrameOfPeripheralMoves :
    Moves (.perRxframe 0 7 0xFF) (st both) (fun _ _ _ => True) ∧
      Moves (.perLoad 0) (st { shifting with txsr := none }) (fun _ _ _ => True) ∧
      Moves (.perShiftdone 0 true 7) (st shifting) (fun _ _ _ => True) :=
  ⟨⟨_, _, _, rfl, rfl, rfl, trivial⟩, ⟨_, _, _, rfl, rfl, rfl, trivial⟩, ⟨_, _, _, rfl, rfl, rfl, trivial⟩⟩

/-- A stimulus is performed, a command is held, and a held command is released. -/
theorem witness_StepKeepsTheInvariant :
    ((st both none [0x2000000000000000]).Inv ∧ ∃ t, step (st both none [0x2000000000000000]) = .next t) ∧
      ((st full none [0x1300000000000005]).Inv ∧
        step (st full none [0x1300000000000005]) = .next (st full (some (.write 0 5)))) ∧
      ((st idle (some (.flush 0))).Inv ∧ ∃ t, step (st idle (some (.flush 0))) = .next t) :=
  ⟨⟨st_inv_free both_inv, _, rfl⟩, ⟨st_inv_free full_inv, rfl⟩,
    ⟨st_inv idle_inv fun _ h => by cases h; exact ⟨rfl, by decide⟩, _, rfl⟩⟩

theorem witness_NoStepFaultsUnderTheInvariant : (st full none [0x2000000000000000]).Inv := st_inv_free full_inv

theorem witness_BufferPrimitivesActAsAQueue : full.tx.Inv 4 ∧ full.tx.count = 4 ∧ idle.rx.Inv 4 ∧ idle.rx.count < 4 :=
  ⟨full_inv.tx, rfl, idle_inv.rx, by decide⟩

theorem witness_FifoLawOfCallSequences : full.tx.Inv 4 ∧ (Buf.reset 8).Inv 2 := ⟨full_inv.tx, reset_buf_inv 8 (by decide)⟩

theorem witness_OutgoingBytesKeepTheirOrder :
    ((st full).Inv ∧ Moves (.isrDre 0) (st full) (fun _ _ _ => True)) ∧
      ((st idle).Inv ∧ Moves (.fgWrite 0 false 5) (st idle) (fun t _ _ => t.resp = some 1)) ∧
      ((st full).Inv ∧ Moves (.fgWrite 0 true 5) (st full) (fun t _ _ => t.resp ≠ some 1)) ∧
      ((st full).Inv ∧ Moves (.fgInit 0 0 0 9600) (st full) (fun _ _ _ => True)) :=
  ⟨⟨st_inv_free full_inv, _, _, _, rfl, rfl, rfl, trivial⟩, ⟨st_inv_free idle_inv, _, _, _, rfl, rfl, rfl, rfl⟩,
    ⟨st_inv_free full_inv, _, _, _, rfl, rfl, rfl, by decide⟩, ⟨st_inv_free full_inv, _, _, _, rfl, rfl, rfl, trivial⟩⟩

theorem witness_ReceivedElementsKeepTheirOrder :
    ((st overrun).Inv ∧ Moves (.isrRxc 0) (st overrun) (fun _ c _ => c.rx.count = Config.resetParams.nRx)) ∧
      ((st both).Inv ∧ Moves (.isrRxc 0) (st both) (fun _ c _ => c.rx.count < Config.resetParams.nRx)) ∧
      ((st overrun).Inv ∧ Moves (.fgRead 0) (st overrun) (fun t _ _ => t.resp = some 0x80A0)) ∧
      ((st idle).Inv ∧ Moves (.fgRead 0) (st idle) (fun t _ _ => t.resp = some 0)) :=
  ⟨⟨st_inv_free overrun_inv, _, _, _, rfl, rfl, rfl, rfl⟩, ⟨st_inv_free both_inv, _, _, _, rfl, rfl, rfl, by decide⟩,
    ⟨st_inv_free overrun_inv, _, _, _, rfl, rfl, rfl, rfl⟩, ⟨st_inv_free idle_inv, _, _, _, rfl, rfl, rfl, rfl⟩⟩

theorem witness_ModeChangesOnlyByTheTransitions :
    Moves (.fgInit 0 0 0 9600) (st fresh) (fun _ c c' => c'.mode ≠ c.mode) ∧
      Moves (.fgInit 0 0 0 1) (picky sending) (fun _ c c' => c'.mode ≠ c.mode) ∧
      Moves (.fgStart 0 false) (st ready) (fun _ c c' => c'.mode ≠ c.mode) ∧
      Moves (.fgStop 0 false) (st full) (fun _ c c' => c'.mode ≠ c.mode) ∧
      Moves (.fgWrite 0 false 1) (st idle) (fun _ c c' => c'.mode ≠ c.mode) ∧
      Moves (.isrTxc 0) (st drained) (fun _ c c' => c'.mode ≠ c.mode) :=
  ⟨⟨_, _, _, rfl, rfl, rfl, by decide⟩, ⟨_, _, _, rfl, rfl, rfl, by decide⟩, ⟨_, _, _, rfl, rfl, rfl, by decide⟩,
    ⟨_, _, _, rfl, rfl, rfl, by decide⟩, ⟨_, _, _, rfl, rfl, rfl, by decide⟩, ⟨_, _, _, rfl, rfl, rfl, by decide⟩⟩

theorem witness_EnablesChangeOnlyAsListed :
    Moves (.isrTxc 0) (st drainedHalf) (fun _ c c' => c.rxcie = false ∧ c'.rxcie = true ∧ c.txcie = true ∧ c'.txcie = false) ∧
      Moves (.fgWrite 0 false 1) (st idleHalf) (fun _ c c' => c.rxcie = true ∧ c'.rxcie = false ∧ c.txcie = false ∧
        c'.txcie = true ∧ c.dreie = false ∧ c'.dreie = true) ∧
      Moves (.isrDre 0) (st sending) (fun _ c c' => c.dreie = true ∧ c'.dreie = false) :=
  ⟨⟨_, _, _, rfl, rfl, rfl, by decide⟩, ⟨_, _, _, rfl, rfl, rfl, by decide⟩, ⟨_, _, _, rfl, rfl, rfl, by decide⟩⟩

theorem witness_StickyFlagsChangeOnlyAsListed :
    Moves (.isrRxc 0) (st overrun) (fun _ c c' => c.rx.ovf = false ∧ c'.rx.ovf = true ∧ c.errs.getLsbD 1 = false ∧
        c'.errs.getLsbD 1 = true) ∧
      Moves (.fgWrite 0 true 5) (st full) (fun _ c c' => c.tx.ovf = false ∧ c'.tx.ovf = true) ∧
      Moves (.fgStatus 0) (st { idle with errs := 4, rx := { idle.rx with ovf := true }, tx := { idle.tx with ovf := true } })
        (fun _ c c' => c.rx.ovf = true ∧ c'.rx.ovf = false ∧ c.tx.ovf = true ∧ c'.tx.ovf = false ∧
          c.errs.getLsbD 2 = true ∧ c'.errs.getLsbD 2 = false) :=
  ⟨⟨_, _, _, rfl, rfl, rfl, by decide⟩, ⟨_, _, _, rfl, rfl, rfl, by decide⟩, ⟨_, _, _, rfl, rfl, rfl, by decide⟩⟩

theorem witness_ConfigurationIsWrittenOnlyByInit :
    Moves (.fgInit 0 15 0xFFFF 0xFFFFFFFF) (st fresh) (fun _ c c' => c'.baud ≠ c.baud) ∧
      Moves (.fgStart 0 true) (st ready) (fun _ _ _ => True) :=
  ⟨⟨_, _, _, rfl, rfl, rfl, by decide⟩, ⟨_, _, _, rfl, rfl, rfl, trivial⟩⟩

theorem witness_ForegroundLeavesThePeripheralAlone :
    (Instr.fgStop 0 true).isForeground = true ∧ Moves (.fgStop 0 true) (st shifting) (fun _ _ _ => True) :=
  ⟨rfl, _, _, _, rfl, rfl, rfl, trivial⟩

theorem witness_TransmissionEndsOnlyWhenDrained :
    (st drained).Inv ∧ Moves (.isrTxc 0) (st drained) (fun _ c c' => c.mode = .transmitting ∧ c'.mode = .idle) :=
  ⟨st_inv_free drained_inv, _, _, _, rfl, rfl, rfl, by decide⟩

theorem witness_FlushStaysHeldWhileTransmitting :
    (st full (some (.flush 0)) [0x2000000000000000]).chan? 0 = some full ∧ full.mode = .transmitting ∧
      ∃ t, step (st full (some (.flush 0)) [0x2000000000000000]) = .next t := ⟨rfl, rfl, _, rfl⟩

theorem witness_HeldFlushReturnsAfterIsrTxc :
    (st drained (some (.flush 0)) [encode (.isrTxc 0)]).chan? 0 = some drained ∧ drained.mode = .transmitting ∧
      drained.tx.count = 0 ∧ drained.txcie = true ∧ drained.txc = true := by decide

theorem witness_HeldWriteIsEnqueuedAfterIsrDre :
    (st full (some (.write 0 5)) [encode (.isrDre 0)]).Inv ∧
      (st full (some (.write 0 5)) [encode (.isrDre 0)]).chan? 0 = some full ∧ full.mode = .transmitting ∧
      full.tx.count = Config.resetParams.nTx ∧ full.txdr = none :=
  ⟨st_inv full_inv fun _ h => by cases h; exact ⟨rfl, by decide⟩, rfl, rfl, rfl, rfl⟩

theorem witness_DreAndRxcHandlersCommute :
    (st both).Inv ∧ (st both).chan? 0 = some both ∧ pending both .dre = true ∧ pending both .rxc = true :=
  ⟨st_inv_free both_inv, rfl, rfl, rfl⟩

/-- The first and the last byte of each word. -/
theorem witness_StoredWordsAreLittleEndian :
    ((0 < 8 ∧ (stimulusBytes 0x1025800300002580)[0]? = some 0x80) ∧
        7 < 8 ∧ (stimulusBytes 0x1025800300002580)[7]? = some 0x10) ∧
      (0 < 2 ∧ (respBytes 0x8120)[0]? = some 0x20) ∧ 1 < 2 ∧ (respBytes 0x8120)[1]? = some 0x81 := by decide

theorem witness_QuietChannelRefusesEveryOtherMove :
    (st idle).chan? 0 = some idle ∧ idle.Quiet ∧ (Instr.isrRxc 0).isForeground = false ∧
      (∀ ch err data, Instr.isrRxc 0 ≠ .perRxframe ch err data) :=
  ⟨rfl, ⟨fun src => by cases src <;> rfl, rfl, rfl⟩, rfl, fun _ _ _ h => nomatch h⟩

/-- A write and a frame are taken on a quiescent channel, and change it. -/
theorem witness_QuiescentChannelChangesOnlyFromOutside :
    ((st idle none [0x1300000000000041]).Quiescent 0 ∧ ∃ t, step (st idle none [0x1300000000000041]) = .next t ∧
        t.chan? 0 ≠ (st idle none [0x1300000000000041]).chan? 0) ∧
      ((st fresh none [0x30000000000002A4]).Quiescent 0 ∧ ∃ t, step (st fresh none [0x30000000000002A4]) = .next t ∧
        t.chan? 0 ≠ (st fresh none [0x30000000000002A4]).chan? 0) :=
  ⟨⟨⟨rfl, idle, rfl, fun src => by cases src <;> rfl, rfl, rfl⟩, _, rfl, by decide⟩,
    ⟨⟨rfl, fresh, rfl, fun src => by cases src <;> rfl, rfl, rfl⟩, _, rfl, by decide⟩⟩

/-- End of P4: a byte still in `TXDR`, so not quiescent; nor is any channel while a command is held (P1 step 10). -/
theorem test_not_quiescent :
    ¬ (st { idle with txdr := some 0x01 }).Quiescent 0 ∧ ¬ (st drained (some (.flush 0))).Quiescent 5 :=
  ⟨fun ⟨_, _, hc, hq⟩ => by cases hc; exact absurd hq.2.1 (by decide), fun h => absurd h.1 (by decide)⟩

end Sys2Proof.Tests
end

section
/-! PROOFS. The state after reset (R29, R160): what each of its parts holds, and the reset table. -/

namespace Sys2Proof.Machine

@[simp] theorem resetOf_held (p : Params) (ls : List Latches) : (State.resetOf p ls).held = none := rfl

@[simp] theorem resetOf_chans (p : Params) (ls : List Latches) : (State.resetOf p ls).chans = ls.map Channel.reset := rfl

/-- Channel `k` after reset is the reset channel with the contents of its own latches. -/
theorem resetOf_chans_getElem? (p : Params) {ls : List Latches} {k : Nat} {l : Latches} (hl : ls[k]? = some l) :
    (State.resetOf p ls).chans[k]? = some (Channel.reset l) := by
  rw [resetOf_chans, List.getElem?_map, hl, Option.map_some]

/-- R29's rows of a buffer other than its storage: indices and count zero, no overflow. -/
theorem reset_buf_empty (w : Nat) :
    (Buf.reset w).head = 0 ∧ (Buf.reset w).tail = 0 ∧ (Buf.reset w).count = 0 ∧ (Buf.reset w).ovf = false :=
  ⟨rfl, rfl, rfl, rfl⟩

/-- R50: no slot of a buffer after reset holds a value. -/
@[simp] theorem reset_buf_read (w j : Nat) : (Buf.reset w).storage.read j = none := rfl

/-- Settles O11: the channel looked up is `Channel.reset l`. Its two buffers' rows are the buffer lemmas above; every other
row of R29's table is the field that `Channel.reset` gives, and the latches are the ones given. -/
theorem resetLeavesTheTableOfValues : Obligations.ResetLeavesTheTableOfValues := by
  intro p ls k l hl
  have length_eq : (State.resetOf p ls).chans.length = ls.length := by rw [resetOf_chans, List.length_map]
  have storage_empty (j : Nat) : (Channel.reset l).rx.storage.read j = none ∧ (Channel.reset l).tx.storage.read j = none :=
    ⟨reset_buf_read 11 j, reset_buf_read 8 j⟩
  refine ⟨resetOf_held p ls, length_eq, Channel.reset l, resetOf_chans_getElem? p hl,
    rfl, rfl, rfl, rfl, rfl, rfl, rfl, rfl, reset_buf_empty 11, reset_buf_empty 8, storage_empty, ?_⟩
  -- The latches, `CONFIGURED`, `PINS` and the peripheral-side fields.
  exact ⟨rfl, ⟨rfl, rfl, rfl⟩, rfl, rfl, rfl, rfl, rfl, rfl⟩

end Sys2Proof.Machine
end

section
/-! PROOFS. The decoder reads the opcode map (R63): a word under a row's mask shows the class, the operation and the format's
must-be-zero bits, which are what the decoder tests; and each mnemonic stands in one row. -/

namespace Sys2Proof

/-! ### A word and its fields (R60) -/

/-- Two words put together from parts of the same widths are equal when both parts are. -/
theorem append_eq_append_iff {v u : Nat} {a a' : BitVec v} {b b' : BitVec u} : a ++ b = a' ++ b' ↔ a = a' ∧ b = b' := by
  constructor
  · intro h
    have hl := congrArg (BitVec.extractLsb' u v) h
    have hr := congrArg (BitVec.extractLsb' 0 u) h
    simp only [BitVec.extractLsb'_append_eq_left] at hl
    simp only [BitVec.extractLsb'_append_eq_right] at hr
    exact ⟨hl, hr⟩
  · rintro ⟨rfl, rfl⟩
    rfl

/-- Zero is put together from zeros. -/
theorem append_eq_zero_iff {v u : Nat} {a : BitVec v} {b : BitVec u} : a ++ b = 0 ↔ a = 0 ∧ b = 0 := by
  rw [← append_eq_append_iff]
  exact iff_of_eq (congrArg _ BitVec.zero_append_zero.symm)

theorem layout_eq_layout_iff {cls op ch cls' op' ch' : BitVec 4} {p p' : BitVec 52} :
    layout cls op ch p = layout cls' op' ch' p' ↔ cls = cls' ∧ op = op' ∧ ch = ch' ∧ p = p' := by
  unfold layout
  rw [append_eq_append_iff, append_eq_append_iff, append_eq_append_iff, and_assoc, and_assoc]

/-- `W[51:0]`, the operand bits. -/
def wordOperands (w : Stimulus) : BitVec 52 := w.extractLsb' 0 52

/-- A word is its class, operation, channel and operand bits, laid out. -/
theorem layout_fields (w : Stimulus) : layout (wordCls w) (wordOp w) (wordCh w) (wordOperands w) = w := by
  have hop : wordCls w ++ wordOp w = w.extractLsb' 56 8 := BitVec.extractLsb'_append_extractLsb'_eq_extractLsb' rfl
  have hch : w.extractLsb' 56 8 ++ wordCh w = w.extractLsb' 52 12 := BitVec.extractLsb'_append_extractLsb'_eq_extractLsb' rfl
  have hp : w.extractLsb' 52 12 ++ wordOperands w = w.extractLsb' 0 64 :=
    BitVec.extractLsb'_append_extractLsb'_eq_extractLsb' rfl
  unfold layout
  rw [hop, hch, hp, BitVec.extractLsb'_eq_self]

/-! ### What a mask shows (R61, R63) -/

/-- A mask of the form of R63 (class, operation and the operand bits `m`) takes a word of class `cls` and operation `op` to
the match value exactly when its operand bits under `m` are zero. -/
theorem and_mask_eq_iff {w : Stimulus} {cls op : BitVec 4} (hc : wordCls w = cls) (ho : wordOp w = op) (m : BitVec 52) :
    w &&& layout 0xF 0xF 0 m = layout cls op 0 0 ↔ wordOperands w &&& m = 0 := by
  subst hc ho
  have hF : (0xF : BitVec 4) = BitVec.allOnes 4 := rfl
  have h0 : wordCh w &&& (0 : BitVec 4) = 0 := BitVec.and_zero
  conv => enter [1, 1, 1]; rw [← layout_fields w]
  rw [layout_and, layout_eq_layout_iff, h0, hF, BitVec.and_allOnes, BitVec.and_allOnes]
  simp only [true_and]

/-- A mask put together of two acts on the two parts of the bits it is laid over. -/
theorem extract_and_append_eq_zero_iff {n u v : Nat} (x : BitVec n) (s : Nat) (a : BitVec u) (b : BitVec v) :
    x.extractLsb' s (u + v) &&& (a ++ b) = 0 ↔ x.extractLsb' (s + v) u &&& a = 0 ∧ x.extractLsb' s v &&& b = 0 := by
  rw [← BitVec.extractLsb'_append_extractLsb'_eq_extractLsb' rfl, BitVec.and_append, append_eq_zero_iff]

/-- A mask of ones asks that every bit it is laid over be zero. -/
theorem and_allOnes_eq_zero_iff {n : Nat} (x : BitVec n) : x &&& BitVec.allOnes n = 0 ↔ x = 0 := by rw [BitVec.and_allOnes]

/-- A mask of zeros asks nothing. -/
theorem and_zero_eq_zero_iff {n : Nat} (x : BitVec n) : x &&& 0#n = 0 ↔ True := iff_true_intro BitVec.and_zero

/-- What the mask of format `I` leaves of a word: its class and operation. -/
theorem and_maskI (w : Stimulus) : w &&& maskI = layout (wordCls w) (wordOp w) 0 0 := by
  have h := layout_maskI (wordCls w) (wordOp w) (wordCh w) (wordOperands w)
  rwa [layout_fields] at h

/-- Format `I` of R61: no operand bit must be zero. -/
theorem matches_maskI {w : Stimulus} {cls op : BitVec 4} (hc : wordCls w = cls) (ho : wordOp w = op) :
    w &&& maskI = layout cls op 0 0 := by
  rw [and_maskI, hc, ho]

/-- Format `Z` of R61: the mask covers all operand bits. -/
theorem matches_maskZ_iff {w : Stimulus} {cls op : BitVec 4} (hc : wordCls w = cls) (ho : wordOp w = op) :
    w &&& maskZ = layout cls op 0 0 ↔ formatZ w = true := by
  rw [maskZ_eq, and_mask_eq_iff hc ho, and_allOnes_eq_zero_iff, formatZ, beq_iff_eq, wordOperands]

/-- Format `F` of R61. -/
theorem matches_maskF_iff {w : Stimulus} {cls op : BitVec 4} (hc : wordCls w = cls) (ho : wordOp w = op) :
    w &&& maskF = layout cls op 0 0 ↔ formatF w = true := by
  rw [maskF_eq, and_mask_eq_iff hc ho]
  change w.extractLsb' 0 (51 + 1) &&& _ = 0 ↔ _
  simp only [extract_and_append_eq_zero_iff, and_allOnes_eq_zero_iff, and_zero_eq_zero_iff, and_true, formatF, beq_iff_eq]

/-- Format `D` of R61. -/
theorem matches_maskD_iff {w : Stimulus} {cls op : BitVec 4} (hc : wordCls w = cls) (ho : wordOp w = op) :
    w &&& maskD = layout cls op 0 0 ↔ formatD w = true := by
  rw [maskD_eq, and_mask_eq_iff hc ho]
  change w.extractLsb' 0 (43 + 1 + 8) &&& _ = 0 ↔ _
  simp only [extract_and_append_eq_zero_iff, and_allOnes_eq_zero_iff, and_zero_eq_zero_iff, and_true, formatD, beq_iff_eq]

/-- Format `R` of R61. -/
theorem matches_maskR_iff {w : Stimulus} {cls op : BitVec 4} (hc : wordCls w = cls) (ho : wordOp w = op) :
    w &&& maskR = layout cls op 0 0 ↔ formatR w = true := by
  rw [maskR_eq, and_mask_eq_iff hc ho]
  change w.extractLsb' 0 (41 + 3 + 8) &&& _ = 0 ↔ _
  simp only [extract_and_append_eq_zero_iff, and_allOnes_eq_zero_iff, and_zero_eq_zero_iff, and_true, formatR, beq_iff_eq]

/-- Format `S` of R61: three separate runs of bits are zero. -/
theorem matches_maskS_iff {w : Stimulus} {cls op : BitVec 4} (hc : wordCls w = cls) (ho : wordOp w = op) :
    w &&& maskS = layout cls op 0 0 ↔ formatS w = true := by
  rw [maskS_eq, and_mask_eq_iff hc ho]
  change w.extractLsb' 0 (35 + 1 + 5 + 3 + 8) &&& _ = 0 ↔ _
  simp only [extract_and_append_eq_zero_iff, and_allOnes_eq_zero_iff, and_zero_eq_zero_iff, and_true, formatS, beq_iff_eq,
    Bool.and_eq_true]
  constructor
  · rintro ⟨⟨h17, h11⟩, h0⟩
    exact ⟨⟨h0, h11⟩, h17⟩
  · rintro ⟨⟨h0, h11⟩, h17⟩
    exact ⟨⟨h17, h11⟩, h0⟩

/-! ### The decoder and the rows -/

theorem checked_ok_iff {ok : Bool} {i j : Instr} : checked ok i = .ok j ↔ ok = true ∧ i = j := by
  cases ok <;> simp [checked]

/-- Clause (d) of R64 comes after the row. -/
theorem decode_ok_iff {nch : Nat} {w : Stimulus} {i : Instr} :
    decode nch w = .ok i ↔ decodeRow w = .ok i ∧ i.ch.toNat < nch := by
  unfold decode
  cases decodeRow w with
  | error e => simp
  | ok j =>
    by_cases hj : j.ch.toNat < nch
    · simp only [hj, if_true, Except.ok.injEq]
      exact ⟨fun h => ⟨h, h ▸ hj⟩, And.left⟩
    · simp only [hj, if_false, reduceCtorEq, false_iff, Except.ok.injEq]
      rintro ⟨rfl, h⟩
      exact hj h

/-- The arm of the decoder that answers `w` is row `r`'s: it reads an instruction with the row's mnemonic on the word's
channel, if a check passes that says the same as the row's mask. -/
def ArmOf (w : Stimulus) (r : Row) : Prop :=
  ∃ ok i, decodeRow w = checked ok i ∧ i.ch = wordCh w ∧ i.mnemonic = r.mnemonic ∧ (r.Matches w ↔ ok = true)

theorem decodeRow_fg {w : Stimulus} (hc : wordCls w = 1) : decodeRow w = decodeFg w := by rw [decodeRow, hc]; rfl
theorem decodeRow_isr {w : Stimulus} (hc : wordCls w = 2) : decodeRow w = decodeIsr w := by rw [decodeRow, hc]; rfl
theorem decodeRow_per {w : Stimulus} (hc : wordCls w = 3) : decodeRow w = decodePer w := by rw [decodeRow, hc]; rfl

theorem armOf_fg {w : Stimulus} {r : Row} (hr : r ∈ fgRows) (hc : wordCls w = 1) (ho : wordOp w = wordOp r.pattern) :
    ArmOf w r := by
  have hd := decodeRow_fg hc
  rw [decodeFg, ho] at hd
  simp only [fgRows, List.mem_cons, List.not_mem_nil, or_false] at hr
  rcases hr with rfl | rfl | rfl | rfl | rfl | rfl | rfl | rfl | rfl
  · exact ⟨true, _, hd, rfl, rfl, iff_of_true (matches_maskI hc ho) rfl⟩
  · exact ⟨_, _, hd, rfl, rfl, matches_maskF_iff hc ho⟩
  · exact ⟨_, _, hd, rfl, rfl, matches_maskF_iff hc ho⟩
  · exact ⟨_, _, hd, rfl, rfl, matches_maskD_iff hc ho⟩
  · exact ⟨_, _, hd, rfl, rfl, matches_maskZ_iff hc ho⟩
  · exact ⟨_, _, hd, rfl, rfl, matches_maskZ_iff hc ho⟩
  · exact ⟨_, _, hd, rfl, rfl, matches_maskZ_iff hc ho⟩
  · exact ⟨_, _, hd, rfl, rfl, matches_maskZ_iff hc ho⟩
  · exact ⟨_, _, hd, rfl, rfl, matches_maskZ_iff hc ho⟩

theorem armOf_isr {w : Stimulus} {r : Row} (hr : r ∈ isrRows) (hc : wordCls w = 2) (ho : wordOp w = wordOp r.pattern) :
    ArmOf w r := by
  have hd := decodeRow_isr hc
  rw [decodeIsr, ho] at hd
  simp only [isrRows, List.mem_cons, List.not_mem_nil, or_false] at hr
  rcases hr with rfl | rfl | rfl
  · exact ⟨_, _, hd, rfl, rfl, matches_maskZ_iff hc ho⟩
  · exact ⟨_, _, hd, rfl, rfl, matches_maskZ_iff hc ho⟩
  · exact ⟨_, _, hd, rfl, rfl, matches_maskZ_iff hc ho⟩

theorem armOf_per {w : Stimulus} {r : Row} (hr : r ∈ perRows) (hc : wordCls w = 3) (ho : wordOp w = wordOp r.pattern) :
    ArmOf w r := by
  have hd := decodeRow_per hc
  rw [decodePer, ho] at hd
  simp only [perRows, List.mem_cons, List.not_mem_nil, or_false] at hr
  rcases hr with rfl | rfl | rfl
  · exact ⟨_, _, hd, rfl, rfl, matches_maskR_iff hc ho⟩
  · exact ⟨_, _, hd, rfl, rfl, matches_maskZ_iff hc ho⟩
  · exact ⟨_, _, hd, rfl, rfl, matches_maskS_iff hc ho⟩

/-- The word has the class and the operation of the row's match value. -/
def SameOp (w : Stimulus) (r : Row) : Prop := wordCls w = wordCls r.pattern ∧ wordOp w = wordOp r.pattern

theorem rows_cls : (∀ r ∈ fgRows, wordCls r.pattern = 1) ∧ (∀ r ∈ isrRows, wordCls r.pattern = 2) ∧
    ∀ r ∈ perRows, wordCls r.pattern = 3 := by decide

theorem armOf_sameOp {w : Stimulus} {r : Row} (hr : r ∈ opcodeTable) (h : SameOp w r) : ArmOf w r := by
  obtain ⟨hc, ho⟩ := h
  obtain ⟨hfg, hisr, hper⟩ := rows_cls
  rw [opcodeTable, List.mem_append, List.mem_append] at hr
  rcases hr with (hr | hr) | hr
  · exact armOf_fg hr (hc.trans (hfg r hr)) ho
  · exact armOf_isr hr (hc.trans (hisr r hr)) ho
  · exact armOf_per hr (hc.trans (hper r hr)) ho

/-- Every mask of R63 holds the class and the operation. -/
theorem mask_covers_op : ∀ r ∈ opcodeTable, r.mask &&& maskI = maskI := by decide

/-- Class and operation are read off from `W & mask = match`. -/
theorem sameOp_of_matches {w : Stimulus} {r : Row} (hr : r ∈ opcodeTable) (hm : r.Matches w) : SameOp w r := by
  have h : layout (wordCls w) (wordOp w) 0 0 = layout (wordCls r.pattern) (wordOp r.pattern) 0 0 := by
    rw [← and_maskI, ← and_maskI, ← hm, BitVec.and_assoc, mask_covers_op r hr]
  obtain ⟨hc, ho, -, -⟩ := layout_eq_layout_iff.1 h
  exact ⟨hc, ho⟩

theorem decodeFg_ok_op {w : Stimulus} {i : Instr} (h : decodeFg w = .ok i) : (wordOp w).toNat < 9 := by
  unfold decodeFg at h
  split at h
  case h_10 => cases h
  all_goals omega

theorem decodeIsr_ok_op {w : Stimulus} {i : Instr} (h : decodeIsr w = .ok i) : (wordOp w).toNat < 3 := by
  unfold decodeIsr at h
  split at h
  case h_4 => cases h
  all_goals omega

theorem decodePer_ok_op {w : Stimulus} {i : Instr} (h : decodePer w = .ok i) : (wordOp w).toNat < 3 := by
  unfold decodePer at h
  split at h
  case h_4 => cases h
  all_goals omega

/-! R63 has a row for each operation that R64 (b) lets pass. -/

theorem fg_row_of_op : ∀ k < 9, ∃ r ∈ opcodeTable, (wordCls r.pattern).toNat = 1 ∧ (wordOp r.pattern).toNat = k := by decide
theorem isr_row_of_op : ∀ k < 3, ∃ r ∈ opcodeTable, (wordCls r.pattern).toNat = 2 ∧ (wordOp r.pattern).toNat = k := by decide
theorem per_row_of_op : ∀ k < 3, ∃ r ∈ opcodeTable, (wordCls r.pattern).toNat = 3 ∧ (wordOp r.pattern).toNat = k := by decide

/-- A row found by numbers, as the decoder's arms are, has the word's class and operation. -/
theorem sameOp_of_toNat {w : Stimulus} {c : Nat} (hc : (wordCls w).toNat = c)
    (h : ∃ r ∈ opcodeTable, (wordCls r.pattern).toNat = c ∧ (wordOp r.pattern).toNat = (wordOp w).toNat) :
    ∃ r ∈ opcodeTable, SameOp w r := by
  obtain ⟨r, hr, hrc, hro⟩ := h
  exact ⟨r, hr, BitVec.eq_of_toNat_eq (hc.trans hrc.symm), BitVec.eq_of_toNat_eq hro.symm⟩

theorem sameOp_of_decodeRow_ok {w : Stimulus} {i : Instr} (h : decodeRow w = .ok i) : ∃ r ∈ opcodeTable, SameOp w r := by
  unfold decodeRow at h
  split at h
  case h_1 hc => exact sameOp_of_toNat hc (fg_row_of_op _ (decodeFg_ok_op h))
  case h_2 hc => exact sameOp_of_toNat hc (isr_row_of_op _ (decodeIsr_ok_op h))
  case h_3 hc => exact sameOp_of_toNat hc (per_row_of_op _ (decodePer_ok_op h))
  case h_4 => cases h

theorem decodeRow_of_matches {w : Stimulus} {r : Row} (hr : r ∈ opcodeTable) (hm : r.Matches w) :
    ∃ i, decodeRow w = .ok i ∧ i.ch = wordCh w ∧ i.mnemonic = r.mnemonic := by
  obtain ⟨ok, i, hd, hch, hn, hok⟩ := armOf_sameOp hr (sameOp_of_matches hr hm)
  exact ⟨i, hd.trans (checked_ok_iff.2 ⟨hok.1 hm, rfl⟩), hch, hn⟩

theorem matches_of_decodeRow {w : Stimulus} {i : Instr} (h : decodeRow w = .ok i) :
    i.ch = wordCh w ∧ ∃ r ∈ opcodeTable, r.Matches w ∧ i.mnemonic = r.mnemonic := by
  obtain ⟨r, hr, hop⟩ := sameOp_of_decodeRow_ok h
  obtain ⟨ok, j, hd, hch, hn, hok⟩ := armOf_sameOp hr hop
  obtain ⟨hpass, rfl⟩ := checked_ok_iff.1 (hd.symm.trans h)
  exact ⟨hch, r, hr, hok.2 hpass, hn⟩

/-- A mnemonic stands in one row of R63. -/
theorem row_eq_of_mnemonic : ∀ r ∈ opcodeTable, ∀ r' ∈ opcodeTable, r.mnemonic = r'.mnemonic → r = r' := by decide

/-- Settles O3: a row that matches is the decoder's arm for the word, and the arm of a word that is read is a row that matches;
it is the row asked for, since the mnemonics differ. -/
theorem decoderAgreesWithTheOpcodeMap : Obligations.DecoderAgreesWithTheOpcodeMap := by
  intro nch w r hr
  constructor
  · rintro ⟨hm, hlt⟩
    obtain ⟨i, hi, hch, hn⟩ := decodeRow_of_matches hr hm
    exact ⟨i, decode_ok_iff.2 ⟨hi, hch ▸ hlt⟩, hn⟩
  · rintro ⟨i, hi, hn⟩
    obtain ⟨hrow, hlt⟩ := decode_ok_iff.1 hi
    obtain ⟨hch, r', hr', hm, hn'⟩ := matches_of_decodeRow hrow
    obtain rfl := row_eq_of_mnemonic r' hr' r hr (hn'.symm.trans hn)
    exact ⟨hm, hch ▸ hlt⟩

end Sys2Proof
end

section
/-! PROOFS. The three interrupt handlers (R91 to R93): when each is pending, what its channel function answers in each case of
its rule, and that a pending handler performs that answer. -/

namespace Sys2Proof.Machine

variable {s : State} {ch : BitVec 4} {c c' : Channel}

/-! ### A pending handler performs its channel function (R90, R139) -/

theorem pending_dre_iff : pending c .dre = true ↔ c.dreie = true ∧ c.txdr = none := by
  simp [pending, condition, enabled, and_comm]

theorem pending_rxc_iff : pending c .rxc = true ↔ c.rxcie = true ∧ c.rxhold ≠ [] := by
  simp [pending, condition, enabled, and_comm]

theorem pending_txc_iff : pending c .txc = true ↔ c.txcie = true ∧ c.txc = true := by
  simp [pending, condition, enabled, and_comm]

theorem exec_isrDre (hc : s.chan? ch = some c) (hp : pending c .dre = true) (h : dreChannel s.par c = .ok c') :
    exec (.isrDre ch) s = .next (s.put ch c' none) := by
  change execIsrDre ch s = _
  rw [execIsrDre, dispatch_eq hc hp, h]
  rfl

theorem exec_isrRxc (hc : s.chan? ch = some c) (hp : pending c .rxc = true) (h : rxcChannel s.par c = some c') :
    exec (.isrRxc ch) s = .next (s.put ch c' none) := by
  change execIsrRxc ch s = _
  rw [execIsrRxc, dispatch_eq hc hp, h]
  rfl

theorem exec_isrTxc (hc : s.chan? ch = some c) (hp : pending c .txc = true) :
    exec (.isrTxc ch) s = .next (s.put ch (txcChannel c) none) :=
  dispatch_eq hc hp _

/-! ### What the channel functions answer -/

/-- `TxDataWrite` on an empty data register (R126). -/
theorem txDataWrite_empty (b : Byte) (h : c.txdr = none) : txDataWrite c b = .ok { c with txdr := some b, txc := false } := by
  rw [txDataWrite, h]

/-- R91's `else` branch: with nothing queued the source is disabled. -/
theorem dreChannel_empty (p : Params) (h : c.tx.count = 0) : dreChannel p c = .ok { c with dreie := false } := by
  rw [dreChannel, pop_empty h]

/-- R91's `then` branch: the oldest byte moves, and the source is disabled if it was the last. -/
theorem dreChannel_queued {b : Byte} (p : Params) (hn : c.tx.count ≠ 0) (hb : c.tx.storage.read c.tx.tail = some b)
    (ht : c.txdr = none) :
    dreChannel p c = .ok
      { c with
        tx := { c.tx with tail := (c.tx.tail + 1) % p.nTx, count := c.tx.count - 1 }
        txdr := some b
        txc := false
        dreie := if c.tx.count = 1 then false else c.dreie } := by
  simp only [dreChannel, pop_some hn hb, txDataWrite_empty, ht]
  by_cases last : c.tx.count = 1
  · simp [last]
  · have more : c.tx.count - 1 ≠ 0 := by omega
    simp [last, more]

/-- R92: the oldest held frame leaves `RXHOLD`, marks `ERRS` and is pushed. -/
theorem rxcChannel_held {v : Frame} {rest : List Frame} (p : Params) (h : c.rxhold = v :: rest) :
    rxcChannel p c = some { c with rxhold := rest, errs := errsAfter c.errs v, rx := (push p.nRx c.rx v).1 } := by
  simp only [rxcChannel, rxDataRead, h]

/-- R93: with nothing queued on a transmitting channel the transmission ends. -/
theorem txcChannel_drained (h0 : c.tx.count = 0) (hm : c.mode = .transmitting) :
    txcChannel c = endTransmit { c with txc := false } :=
  if_pos ⟨h0, hm⟩

/-- R93: otherwise the handler acknowledges and does nothing else. -/
theorem txcChannel_acknowledges (h : ¬ (c.tx.count = 0 ∧ c.mode = .transmitting)) : txcChannel c = { c with txc := false } :=
  if_neg h

/-! ### The obligations -/

/-- Settles O25: the two clauses are the two branches of R91. -/
theorem isrDreMovesOneByte : Obligations.IsrDreMovesOneByte := by
  intro s ch c hc hen ht
  have hp : pending c .dre = true := pending_dre_iff.2 ⟨hen, ht⟩
  constructor
  · intro h0
    exact exec_isrDre hc hp (dreChannel_empty s.par h0)
  · intro b hn hb
    rw [exec_isrDre hc hp (dreChannel_queued s.par hn hb ht), hen]

/-- Settles O26: whether the frame is stored or dropped is the case split of `push`. -/
theorem isrRxcTakesOneFrame : Obligations.IsrRxcTakesOneFrame := by
  intro s ch c v rest hc hen hh
  have hp : pending c .rxc = true := pending_rxc_iff.2 ⟨hen, by rw [hh]; exact List.cons_ne_nil v rest⟩
  rw [exec_isrRxc hc hp (rxcChannel_held s.par hh), errsAfter, frameTag]
  by_cases full : c.rx.count = s.par.nRx
  · rw [push_full v full, if_pos full]
  · rw [push_room v full, if_neg full]

/-- Settles O27: a transmission that ends does so by `end_transmit`, with the discard only on a half-duplex channel that skips
its echo (R103). -/
theorem isrTxcEndsTheTransmission : Obligations.IsrTxcEndsTheTransmission := by
  intro s ch c hc hen ht
  rw [exec_isrTxc hc (pending_txc_iff.2 ⟨hen, ht⟩)]
  refine ⟨fun h0 hm hhd hskip => ?half, fun h0 hm hfull => ?full, fun hmore => ?more⟩
  case half =>
    have echo : (c.hd && c.skip) = true := Bool.and_eq_true_iff.2 ⟨hhd, hskip⟩
    rw [txcChannel_drained h0 hm, endTransmit_half (c := { c with txc := false }) echo]
  case full =>
    have no_echo : (c.hd && c.skip) = false := by simpa using hfull
    rw [txcChannel_drained h0 hm, endTransmit_full (c := { c with txc := false }) no_echo]
  case more =>
    rw [txcChannel_acknowledges hmore]

end Sys2Proof.Machine
end

section
/-! PROOFS. The foreground commands that are never held (R111 to R113, R115 to R117, R119): each is performed by its channel
function when the port is free, and what that function answers in each case of its rule. -/

namespace Sys2Proof.Machine

variable {s : State} {ch : BitVec 4} {c c' : Channel}

/-! ### With the port free a command performs its channel function (R6, R8) -/

section PortFree

variable (hc : s.chan? ch = some c) (hh : s.held = none)
include hc hh

theorem exec_fgInit (pmux : BitVec 4) (mode : BitVec 16) (baud : BitVec 32) :
    exec (.fgInit ch pmux mode baud) s = respond s ch (initChannel s.par c pmux mode baud) :=
  foreground_eq hc hh _

theorem exec_fgStart (f : Bool) :
    exec (.fgStart ch f) s = respond s ch (startChannel c f) :=
  foreground_eq hc hh _

theorem exec_fgStop (f : Bool) :
    exec (.fgStop ch f) s = respond s ch (stopChannel c f) :=
  foreground_eq hc hh _

theorem exec_fgRead {r : Resp} (h : readChannel s.par c = .ok (c', r)) :
    exec (.fgRead ch) s = .next (s.put ch c' (some r)) := by
  change execFgRead ch s = _
  rw [execFgRead, foreground_eq hc hh, h]
  rfl

theorem exec_fgAvail :
    exec (.fgAvail ch) s = respond s ch (c, respCount (available c.rx)) :=
  foreground_eq hc hh _

theorem exec_fgFree :
    exec (.fgFree ch) s = respond s ch (c, respCount (freeSpace s.par.nTx c.tx)) :=
  foreground_eq hc hh _

theorem exec_fgStatus :
    exec (.fgStatus ch) s = respond s ch (statusChannel c) :=
  foreground_eq hc hh _

end PortFree

/-! ### What the channel functions answer -/

/-- R111's `then` branch: the channel is stopped, latched, claimed and started. -/
theorem initChannel_supported {p : Params} {mode : BitVec 16} {baud : BitVec 32} (c : Channel) (pmux : BitVec 4)
    (h : p.cfgSupported baud (modeFrame mode) = true) :
    initChannel p c pmux mode baud =
      (enterIdle
        { enterStopped c with
          hd := modeHd mode, frame := modeFrame mode, baud := baud, pmux := pmux, configured := true, errs := 0, pins := true },
        respBit true) :=
  if_pos h

/-- R111's `else` branch: the channel is stopped. -/
theorem initChannel_unsupported {p : Params} {mode : BitVec 16} {baud : BitVec 32} (c : Channel) (pmux : BitVec 4)
    (h : p.cfgSupported baud (modeFrame mode) = false) :
    initChannel p c pmux mode baud = (enterStopped c, respBit false) :=
  if_neg (Bool.eq_false_iff.1 h)

/-- R112: a configured, stopped channel enters idle, and the flag claims the pins. -/
theorem startChannel_effective (f : Bool) (hcfg : c.configured = true) (hm : c.mode = .stopped) :
    startChannel c f = ({ enterIdle c with pins := if f = true then true else c.pins }, 0) := by
  rw [startChannel, if_pos ⟨hcfg, hm⟩]
  cases f <;> rfl

/-- R112: on any other channel the command is a no-op. -/
theorem startChannel_noop (f : Bool) (h : c.configured = false ∨ c.mode ≠ .stopped) : startChannel c f = (c, 0) := by
  refine if_neg fun ⟨hcfg, hm⟩ => ?_
  rcases h with h | h
  · exact Bool.false_ne_true (h.symm.trans hcfg)
  · exact h hm

/-- R113: the channel stops, and the flag releases the pins. -/
theorem stopChannel_eq (c : Channel) (f : Bool) :
    stopChannel c f = ({ enterStopped c with pins := if f = true then false else c.pins }, 0) := by
  cases f <;> rfl

/-- R115: an empty buffer gives the zero response. -/
theorem readChannel_empty (p : Params) (h : c.rx.count = 0) : readChannel p c = .ok (c, 0) := by
  rw [readChannel, pop_empty h]
  rfl

/-- R115: the oldest element leaves the buffer and is the response. -/
theorem readChannel_queued {v : Frame} (p : Params) (hn : c.rx.count ≠ 0) (hv : c.rx.storage.read c.rx.tail = some v) :
    readChannel p c = .ok
      ({ c with rx := { c.rx with tail := (c.rx.tail + 1) % p.nRx, count := c.rx.count - 1 } }, respRead (some v)) := by
  rw [readChannel, pop_some hn hv]

/-! ### The bits of the response words (R65) -/

/-- Bits above a word's width read as zero. -/
theorem extractLsb'_eq_zero_of_le {w start : Nat} (x : BitVec w) (len : Nat) (h : w ≤ start) : x.extractLsb' start len = 0 := by
  ext i hi
  simp [BitVec.getLsbD_of_ge x (start + i) (by omega)]

/-- `VALID` (R115): an element has no bit 15. -/
theorem respRead_valid (v : Frame) : (respRead (some v)).getLsbD 15 = true := by
  simp [respRead]

/-- Below `VALID` the response is the element (R115). -/
theorem respRead_below_valid (v : Frame) {start len : Nat} (h : start + len ≤ 15) :
    (respRead (some v)).extractLsb' start len = v.extractLsb' start len := by
  have valid : (0x8000#16).extractLsb' start len = 0#len := by
    change (1#1 ++ 0#15 : BitVec (1 + 15)).extractLsb' start len = 0#len
    rw [BitVec.extractLsb'_append_eq_of_add_le h, BitVec.extractLsb'_zero]
  rw [respRead, BitVec.extractLsb'_or, valid, BitVec.zero_or, BitVec.extractLsb'_setWidth_of_le (by omega)]

/-- Bits 2 to 0 of the status word are the error tag (R119). -/
theorem respStatus_errs (c : Channel) {i : Nat} (h : i < 3) : (respStatus c).getLsbD i = c.errs.getLsbD i := by
  have in_word : i < 16 := by omega
  simp only [respStatus, BitVec.getLsbD_setWidth, BitVec.getLsbD_append, h, in_word, decide_true, Bool.true_and, if_true]

theorem respStatus_rxOvf (c : Channel) : (respStatus c).getLsbD 3 = c.rx.ovf := by
  rw [respStatus, BitVec.getLsbD_setWidth, BitVec.getLsbD_append, BitVec.getLsbD_append]
  simp

theorem respStatus_txOvf (c : Channel) : (respStatus c).getLsbD 4 = c.tx.ovf := by
  rw [respStatus, BitVec.getLsbD_setWidth, BitVec.getLsbD_append, BitVec.getLsbD_append]
  simp

/-- The status word is zero above its five flags (R119). -/
theorem respStatus_above (c : Channel) : (respStatus c).extractLsb' 5 11 = 0 := by
  rw [respStatus, BitVec.extractLsb'_setWidth_of_le (by omega)]
  exact extractLsb'_eq_zero_of_le _ 11 (Nat.le_refl 5)

/-! ### The obligations -/

/-- Settles O14: the two clauses are the two branches of R111. -/
theorem fgInitConfiguresOrFails : Obligations.FgInitConfiguresOrFails := by
  intro s ch pmux mode baud c hc hh
  rw [exec_fgInit hc hh]
  constructor
  · intro hsup
    rw [initChannel_supported c pmux hsup]
    rfl
  · intro huns
    rw [initChannel_unsupported c pmux huns]
    rfl

/-- Settles O15: the two clauses are the two branches of R112. -/
theorem fgStartStartsAConfiguredStoppedChannel : Obligations.FgStartStartsAConfiguredStoppedChannel := by
  intro s ch f c hc hh
  rw [exec_fgStart hc hh]
  constructor
  · intro hcfg hm
    rw [startChannel_effective f hcfg hm]
    rfl
  · intro hother
    rw [startChannel_noop f hother]
    rfl

/-- Settles O16. -/
theorem fgStopStopsTheChannel : Obligations.FgStopStopsTheChannel := by
  intro s ch f c hc hh
  rw [exec_fgStop hc hh, stopChannel_eq]
  rfl

/-- Settles O20: the two clauses are the two cases of `pop` (R81). -/
theorem fgReadDequeuesTheOldestElement : Obligations.FgReadDequeuesTheOldestElement := by
  intro s ch c hc hh
  constructor
  · intro h0
    exact exec_fgRead hc hh (readChannel_empty s.par h0)
  · intro v hn hv
    refine ⟨respRead (some v), exec_fgRead hc hh (readChannel_queued s.par hn hv), respRead_valid v, ?reserved, ?tag, ?byte⟩
    case reserved => rw [respRead_below_valid v (by omega), extractLsb'_eq_zero_of_le v 4 (Nat.le_refl 11)]
    case tag => exact respRead_below_valid v (by omega)
    case byte => exact respRead_below_valid v (by omega)

/-- Settles O21: neither query has a case in which it does anything but answer. -/
theorem fgAvailAndFgFreeAnswerTheCounts : Obligations.FgAvailAndFgFreeAnswerTheCounts :=
  fun _ _ _ hc hh => ⟨exec_fgAvail hc hh, exec_fgFree hc hh⟩

/-- Settles O24: the response is the status word of the record before the clear. -/
theorem fgStatusReadsAndClearsTheStickyFlags : Obligations.FgStatusReadsAndClearsTheStickyFlags := by
  intro s ch c hc hh
  exact ⟨respStatus c, exec_fgStatus hc hh, respStatus_errs c (by omega), respStatus_errs c (by omega),
    respStatus_errs c (by omega), respStatus_rxOvf c, respStatus_txOvf c, respStatus_above c⟩

end Sys2Proof.Machine
end

section
/-! PROOFS. The three moves of the reference peripheral (R128 to R130): what the channel function of each answers where its
precondition holds and where it fails, and that the move performs that answer or is refused. -/

namespace Sys2Proof.Machine

variable {s : State} {ch : BitVec 4} {c c' : Channel}

/-! ### A move on an existing channel performs its channel function, or is refused -/

theorem exec_perRxframe (hc : s.chan? ch = some c) (err : Tag) (data : Byte) :
    exec (.perRxframe ch err data) s = .next (s.put ch (receiveFrame s.par.hwRxDepth c (mkFrame err data)) none) :=
  onChannel_eq hc _

theorem exec_perLoad (hc : s.chan? ch = some c) (h : loadChannel c = some c') :
    exec (.perLoad ch) s = .next (s.put ch c' none) := by
  change execPerLoad ch s = _
  rw [execPerLoad, onChannel_eq hc, h]
  rfl

theorem exec_perLoad_refused (hc : s.chan? ch = some c) (h : loadChannel c = none) :
    exec (.perLoad ch) s = .refused .loadNotEnabled := by
  change execPerLoad ch s = _
  rw [execPerLoad, onChannel_eq hc, h]

theorem exec_perShiftdone {echo : Bool} {err : Tag} (hc : s.chan? ch = some c)
    (h : shiftdoneChannel s.par.hwRxDepth c echo err = some c') :
    exec (.perShiftdone ch echo err) s = .next (s.put ch c' none) := by
  change execPerShiftdone ch echo err s = _
  rw [execPerShiftdone, onChannel_eq hc, h]
  rfl

theorem exec_perShiftdone_refused {echo : Bool} {err : Tag} (hc : s.chan? ch = some c)
    (h : shiftdoneChannel s.par.hwRxDepth c echo err = none) :
    exec (.perShiftdone ch echo err) s = .refused .shiftNotEnabled := by
  change execPerShiftdone ch echo err s = _
  rw [execPerShiftdone, onChannel_eq hc, h]

/-! ### What the channel functions answer -/

/-- R128: with room a frame is held. -/
theorem receiveFrame_room {depth : Nat} (v : Frame) (h : c.rxhold.length < depth) :
    receiveFrame depth c v = { c with rxhold := c.rxhold ++ [v] } :=
  if_pos h

/-- R128: without room a frame is lost, and nothing shows it. -/
theorem receiveFrame_full {depth : Nat} (v : Frame) (h : depth ≤ c.rxhold.length) : receiveFrame depth c v = c :=
  if_neg (Nat.not_lt.2 h)

/-- R129 with its precondition. -/
theorem loadChannel_enabled {b : Byte} (hd : c.txdr = some b) (hs : c.txsr = none) :
    loadChannel c = some { c with txsr := some b, txdr := none } := by
  simp only [loadChannel, hd, hs]

/-- R129 without its precondition: a load would have needed both halves of it. -/
theorem loadChannel_disabled (h : c.txdr = none ∨ c.txsr ≠ none) : loadChannel c = none := by
  refine Option.eq_none_iff_forall_ne_some.2 fun c' hl => ?_
  obtain ⟨b, hd, hs, -⟩ := loadChannel_some hl
  rcases h with no_byte | busy
  · exact Option.some_ne_none b (hd.symm.trans no_byte)
  · exact busy hs

/-- R130 with its precondition: there is an answer, and `shiftdoneChannel_some` says which. -/
theorem shiftdoneChannel_enabled {b : Byte} (depth : Nat) (echo : Bool) (err : Tag) (hb : c.txsr = some b) :
    shiftdoneChannel depth c echo err = some
      { c with
        wire := c.wire ++ [b]
        txsr := none
        rxhold := if echo = true ∧ c.rxhold.length < depth then c.rxhold ++ [mkFrame err b] else c.rxhold
        txc := if c.txdr = none then true else c.txc } := by
  obtain ⟨c', hs⟩ : ∃ c', shiftdoneChannel depth c echo err = some c' := by
    rw [shiftdoneChannel, hb]
    exact ⟨_, rfl⟩
  obtain ⟨b', hb', rfl⟩ := shiftdoneChannel_some hs
  obtain rfl : b = b' := Option.some.inj (hb.symm.trans hb')
  exact hs

/-- R130 without its precondition. -/
theorem shiftdoneChannel_disabled (depth : Nat) (echo : Bool) (err : Tag) (h : c.txsr = none) :
    shiftdoneChannel depth c echo err = none := by
  rw [shiftdoneChannel, h]

/-! ### The obligations -/

/-- Settles O31: the two clauses are the two branches of R128, with room in `RXHOLD` and without. -/
theorem perRxframeHoldsOrLosesTheFrame : Obligations.PerRxframeHoldsOrLosesTheFrame := by
  intro s ch err data c hc
  rw [exec_perRxframe hc]
  constructor
  · intro room
    rw [receiveFrame_room _ room, mkFrame]
  · intro full
    rw [receiveFrame_full _ full]

/-- Settles O32: the two clauses are R129's precondition and its negation. -/
theorem perLoadMovesTheByteToTheShifter : Obligations.PerLoadMovesTheByteToTheShifter := by
  intro s ch c hc
  constructor
  · intro b hd hs
    exact exec_perLoad hc (loadChannel_enabled hd hs)
  · intro h
    exact exec_perLoad_refused hc (loadChannel_disabled h)

/-- Settles O33: the two clauses are R130's precondition and its negation. -/
theorem perShiftdonePutsTheByteOnTheWire : Obligations.PerShiftdonePutsTheByteOnTheWire := by
  intro s ch echo err c hc
  constructor
  · intro b hb
    exact exec_perShiftdone hc (shiftdoneChannel_enabled s.par.hwRxDepth echo err hb)
  · intro h
    exact exec_perShiftdone_refused hc (shiftdoneChannel_disabled s.par.hwRxDepth echo err h)

end Sys2Proof.Machine
end

section
/-! PROOFS. The round trip of the stimulus word (R60 to R63): each operand format as an `↔` between a word's operand bits and
what the decoder tests and reads, and from these the decoder's row as the inverse of the encoder. -/

namespace Sys2Proof

/-! ### The operand bits of each format (R61) -/

/-- A word is laid out from its own fields only. -/
theorem layout_eq_iff {w : Stimulus} {cls op ch : BitVec 4} {p : BitVec 52} :
    layout cls op ch p = w ↔ wordCls w = cls ∧ wordOp w = op ∧ wordCh w = ch ∧ wordOperands w = p := by
  conv => enter [1, 2]; rw [← layout_fields w]
  rw [layout_eq_layout_iff, eq_comm, eq_comm (a := op), eq_comm (a := ch), eq_comm (a := p)]

/-- A run of bits laid out in two parts. -/
theorem extract_eq_append_iff {n u v : Nat} (x : BitVec n) (s : Nat) (a : BitVec u) (b : BitVec v) :
    x.extractLsb' s (u + v) = a ++ b ↔ x.extractLsb' (s + v) u = a ∧ x.extractLsb' s v = b := by
  rw [← BitVec.extractLsb'_append_extractLsb'_eq_extractLsb' rfl, append_eq_append_iff]

/-- One bit read as a flag. -/
theorem extract_one_eq_ofBool_iff {n : Nat} (x : BitVec n) (s : Nat) (b : Bool) :
    x.extractLsb' s 1 = BitVec.ofBool b ↔ x.getLsbD s = b := by
  have h : x.extractLsb' s 1 = BitVec.ofBool (x.getLsbD s) := by
    ext i hi
    obtain rfl : i = 0 := by omega
    simp
  rw [h]
  cases x.getLsbD s <;> cases b <;> decide

theorem operandsZ_iff {w : Stimulus} : wordOperands w = 0 ↔ formatZ w = true := by
  rw [formatZ, beq_iff_eq, wordOperands]

theorem operandsI_iff {w : Stimulus} {pmux : BitVec 4} {mode : BitVec 16} {baud : BitVec 32} :
    wordOperands w = operandsI pmux mode baud ↔ wordPmux w = pmux ∧ wordMode w = mode ∧ wordBaud w = baud := by
  change w.extractLsb' 0 (4 + 16 + 32) = pmux ++ mode ++ baud ↔ _
  rw [extract_eq_append_iff, extract_eq_append_iff, and_assoc]
  rfl

theorem operandsF_iff {w : Stimulus} {f : Bool} : wordOperands w = operandsF f ↔ formatF w = true ∧ wordF w = f := by
  change w.extractLsb' 0 (51 + 1) = 0#51 ++ BitVec.ofBool f ↔ _
  rw [extract_eq_append_iff, extract_one_eq_ofBool_iff, formatF, beq_iff_eq]
  rfl

theorem operandsD_iff {w : Stimulus} {nb : Bool} {data : Byte} :
    wordOperands w = operandsD nb data ↔ formatD w = true ∧ wordNb w = nb ∧ wordData w = data := by
  change w.extractLsb' 0 (43 + 1 + 8) = 0#43 ++ BitVec.ofBool nb ++ data ↔ _
  rw [extract_eq_append_iff, extract_eq_append_iff, extract_one_eq_ofBool_iff, formatD, beq_iff_eq, and_assoc]
  rfl

theorem operandsR_iff {w : Stimulus} {err : Tag} {data : Byte} :
    wordOperands w = operandsR err data ↔ formatR w = true ∧ wordErr w = err ∧ wordData w = data := by
  change w.extractLsb' 0 (41 + 3 + 8) = 0#41 ++ err ++ data ↔ _
  rw [extract_eq_append_iff, extract_eq_append_iff, formatR, beq_iff_eq, and_assoc]
  rfl

theorem operandsS_iff {w : Stimulus} {echo : Bool} {err : Tag} :
    wordOperands w = operandsS echo err ↔ formatS w = true ∧ wordEcho w = echo ∧ wordErr w = err := by
  change w.extractLsb' 0 (35 + 1 + 5 + 3 + 8) = 0#35 ++ BitVec.ofBool echo ++ 0#5 ++ err ++ 0#8 ↔ _
  simp only [extract_eq_append_iff, extract_one_eq_ofBool_iff, formatS, Bool.and_eq_true, beq_iff_eq]
  constructor
  · rintro ⟨⟨⟨⟨h17, hecho⟩, h11⟩, herr⟩, h0⟩
    exact ⟨⟨⟨h0, h11⟩, h17⟩, hecho, herr⟩
  · rintro ⟨⟨⟨h0, h11⟩, h17⟩, hecho, herr⟩
    exact ⟨⟨⟨⟨h17, hecho⟩, h11⟩, herr⟩, h0⟩

/-! ### The decoder's row is the inverse of the encoder -/

variable {w : Stimulus} {i : Instr}

theorem encode_of_decodeFg (hc : wordCls w = 1) (h : decodeFg w = .ok i) : encode i = w := by
  unfold decodeFg at h
  split at h
  case h_1 ho => cases h; exact layout_eq_iff.2 ⟨hc, BitVec.eq_of_toNat_eq ho, rfl, operandsI_iff.2 ⟨rfl, rfl, rfl⟩⟩
  case h_10 => cases h
  all_goals
    next ho =>
      obtain ⟨hz, rfl⟩ := checked_ok_iff.1 h
      refine layout_eq_iff.2 ⟨hc, BitVec.eq_of_toNat_eq ho, rfl, ?_⟩
      simp only [operandsF_iff, operandsD_iff, operandsZ_iff, hz, and_self]

theorem encode_of_decodeIsr (hc : wordCls w = 2) (h : decodeIsr w = .ok i) : encode i = w := by
  unfold decodeIsr at h
  split at h
  case h_4 => cases h
  all_goals
    next ho =>
      obtain ⟨hz, rfl⟩ := checked_ok_iff.1 h
      exact layout_eq_iff.2 ⟨hc, BitVec.eq_of_toNat_eq ho, rfl, operandsZ_iff.2 hz⟩

theorem encode_of_decodePer (hc : wordCls w = 3) (h : decodePer w = .ok i) : encode i = w := by
  unfold decodePer at h
  split at h
  case h_4 => cases h
  all_goals
    next ho =>
      obtain ⟨hz, rfl⟩ := checked_ok_iff.1 h
      refine layout_eq_iff.2 ⟨hc, BitVec.eq_of_toNat_eq ho, rfl, ?_⟩
      simp only [operandsR_iff, operandsS_iff, operandsZ_iff, hz, and_self]

/-- What the decoder's row reads from a word encodes to that word. -/
theorem encode_of_decodeRow (h : decodeRow w = .ok i) : encode i = w := by
  unfold decodeRow at h
  split at h
  case h_1 hc => exact encode_of_decodeFg (BitVec.eq_of_toNat_eq hc) h
  case h_2 hc => exact encode_of_decodeIsr (BitVec.eq_of_toNat_eq hc) h
  case h_3 hc => exact encode_of_decodePer (BitVec.eq_of_toNat_eq hc) h
  case h_4 => cases h

/-- The decoder's row reads every operand of an encoded instruction back. -/
theorem decodeRow_encode (i : Instr) : decodeRow (encode i) = .ok i := by
  obtain ⟨w, hw⟩ : ∃ w, encode i = w := ⟨_, rfl⟩
  rw [hw]
  cases i with
  | fgInit ch pmux mode baud =>
    obtain ⟨hc, ho, rfl, hp⟩ := layout_eq_iff.1 hw
    obtain ⟨rfl, rfl, rfl⟩ := operandsI_iff.1 hp
    rw [decodeRow_fg hc, decodeFg, ho]; rfl
  | fgStart ch f =>
    obtain ⟨hc, ho, rfl, hp⟩ := layout_eq_iff.1 hw
    obtain ⟨hz, rfl⟩ := operandsF_iff.1 hp
    rw [decodeRow_fg hc, decodeFg, ho]; exact checked_ok_iff.2 ⟨hz, rfl⟩
  | fgStop ch f =>
    obtain ⟨hc, ho, rfl, hp⟩ := layout_eq_iff.1 hw
    obtain ⟨hz, rfl⟩ := operandsF_iff.1 hp
    rw [decodeRow_fg hc, decodeFg, ho]; exact checked_ok_iff.2 ⟨hz, rfl⟩
  | fgWrite ch nb data =>
    obtain ⟨hc, ho, rfl, hp⟩ := layout_eq_iff.1 hw
    obtain ⟨hz, rfl, rfl⟩ := operandsD_iff.1 hp
    rw [decodeRow_fg hc, decodeFg, ho]; exact checked_ok_iff.2 ⟨hz, rfl⟩
  | fgRead ch | fgAvail ch | fgFree ch | fgFlush ch | fgStatus ch =>
    obtain ⟨hc, ho, rfl, hp⟩ := layout_eq_iff.1 hw
    rw [decodeRow_fg hc, decodeFg, ho]; exact checked_ok_iff.2 ⟨operandsZ_iff.1 hp, rfl⟩
  | isrDre ch | isrRxc ch | isrTxc ch =>
    obtain ⟨hc, ho, rfl, hp⟩ := layout_eq_iff.1 hw
    rw [decodeRow_isr hc, decodeIsr, ho]; exact checked_ok_iff.2 ⟨operandsZ_iff.1 hp, rfl⟩
  | perRxframe ch err data =>
    obtain ⟨hc, ho, rfl, hp⟩ := layout_eq_iff.1 hw
    obtain ⟨hz, rfl, rfl⟩ := operandsR_iff.1 hp
    rw [decodeRow_per hc, decodePer, ho]; exact checked_ok_iff.2 ⟨hz, rfl⟩
  | perLoad ch =>
    obtain ⟨hc, ho, rfl, hp⟩ := layout_eq_iff.1 hw
    rw [decodeRow_per hc, decodePer, ho]; exact checked_ok_iff.2 ⟨operandsZ_iff.1 hp, rfl⟩
  | perShiftdone ch echo err =>
    obtain ⟨hc, ho, rfl, hp⟩ := layout_eq_iff.1 hw
    obtain ⟨hz, rfl, rfl⟩ := operandsS_iff.1 hp
    rw [decodeRow_per hc, decodePer, ho]; exact checked_ok_iff.2 ⟨hz, rfl⟩

/-! ### The obligations -/

/-- Settles O1: the row reads the instruction back, and its channel passes clause (d) of R64. -/
theorem decodeOfEncodeGivesTheInstruction : Obligations.DecodeOfEncodeGivesTheInstruction :=
  fun _ i hwf => decode_ok_iff.2 ⟨decodeRow_encode i, hwf⟩

/-- Settles O2: what the row reads encodes to the word, and clause (d) of R64 is what makes the instruction legal. -/
theorem encodeOfDecodeGivesTheWord : Obligations.EncodeOfDecodeGivesTheWord := by
  intro nch w i h
  obtain ⟨hrow, hwf⟩ := decode_ok_iff.1 h
  exact ⟨encode_of_decodeRow hrow, hwf⟩

end Sys2Proof
end

section
/-! PROOFS. The illegal words of R64 in the order of its clauses, and the byte form of words (R42, R68). -/

namespace Sys2Proof

variable {w : Stimulus}

/-! ### The illegal words (R64) -/

/-- R64 (a): the word's class is none of the three. -/
def UnlistedCls (w : Stimulus) : Prop := wordCls w ≠ 1 ∧ wordCls w ≠ 2 ∧ wordCls w ≠ 3

/-- R64 (b): the word's class is one of the three and has no row for its operation. -/
def UnlistedOp (w : Stimulus) : Prop :=
  (wordCls w = 1 ∧ 9 ≤ (wordOp w).toNat) ∨ ((wordCls w = 2 ∨ wordCls w = 3) ∧ 3 ≤ (wordOp w).toNat)

/-- The word's class has a row for its operation. -/
def ListedOp (w : Stimulus) : Prop :=
  (wordCls w = 1 ∧ (wordOp w).toNat < 9) ∨ ((wordCls w = 2 ∨ wordCls w = 3) ∧ (wordOp w).toNat < 3)

theorem not_listedOp_of_unlistedCls (h : UnlistedCls w) : ¬ ListedOp w := by
  rintro (⟨hc, -⟩ | ⟨hc | hc, -⟩)
  exacts [h.1 hc, h.2.1 hc, h.2.2 hc]

theorem not_unlistedOp_of_unlistedCls (h : UnlistedCls w) : ¬ UnlistedOp w := by
  rintro (⟨hc, -⟩ | ⟨hc | hc, -⟩)
  exacts [h.1 hc, h.2.1 hc, h.2.2 hc]

theorem not_listedOp_of_unlistedOp (h : UnlistedOp w) : ¬ ListedOp w := by
  rcases h with ⟨hc, ho⟩ | ⟨hc | hc, ho⟩ <;> simp [ListedOp, hc, ho]

/-- A listed operation is the operation of a row. -/
theorem sameOp_of_listedOp (h : ListedOp w) : ∃ r ∈ opcodeTable, SameOp w r := by
  rcases h with ⟨hc, ho⟩ | ⟨hc | hc, ho⟩
  · exact sameOp_of_toNat (congrArg BitVec.toNat hc) (fg_row_of_op _ ho)
  · exact sameOp_of_toNat (congrArg BitVec.toNat hc) (isr_row_of_op _ ho)
  · exact sameOp_of_toNat (congrArg BitVec.toNat hc) (per_row_of_op _ ho)

theorem listedOp_pattern : ∀ r ∈ opcodeTable, (wordCls r.pattern = 1 ∧ (wordOp r.pattern).toNat < 9) ∨
    ((wordCls r.pattern = 2 ∨ wordCls r.pattern = 3) ∧ (wordOp r.pattern).toNat < 3) := by decide

/-- A word that matches a row has a listed operation. -/
theorem listedOp_of_matches {r : Row} (hr : r ∈ opcodeTable) (hm : r.Matches w) : ListedOp w := by
  obtain ⟨hc, ho⟩ := sameOp_of_matches hr hm
  rw [ListedOp, hc, ho]
  exact listedOp_pattern r hr

/-- No two rows have the same class and operation. -/
theorem row_eq_of_op : ∀ r ∈ opcodeTable, ∀ r' ∈ opcodeTable,
    wordCls r.pattern = wordCls r'.pattern → wordOp r.pattern = wordOp r'.pattern → r = r' := by decide

/-- Clause (a) of R64. -/
theorem decodeRow_badClass (h1 : wordCls w ≠ 1) (h2 : wordCls w ≠ 2) (h3 : wordCls w ≠ 3) :
    decodeRow w = .error .badClass := by
  unfold decodeRow
  split
  case h_1 hc => exact absurd (BitVec.eq_of_toNat_eq hc) h1
  case h_2 hc => exact absurd (BitVec.eq_of_toNat_eq hc) h2
  case h_3 hc => exact absurd (BitVec.eq_of_toNat_eq hc) h3
  case h_4 => rfl

/-- Clause (b) of R64, class `FG`. -/
theorem decodeFg_badOp (ho : 9 ≤ (wordOp w).toNat) : decodeFg w = .error .badOp := by
  unfold decodeFg
  split
  case h_10 => rfl
  all_goals omega

/-- Clause (b) of R64, class `ISR`. -/
theorem decodeIsr_badOp (ho : 3 ≤ (wordOp w).toNat) : decodeIsr w = .error .badOp := by
  unfold decodeIsr
  split
  case h_4 => rfl
  all_goals omega

/-- Clause (b) of R64, class `PER`. -/
theorem decodePer_badOp (ho : 3 ≤ (wordOp w).toNat) : decodePer w = .error .badOp := by
  unfold decodePer
  split
  case h_4 => rfl
  all_goals omega

/-- What the decoder's row answers: the clauses (a) to (c) of R64 in their order, else the row that matches. -/
theorem decodeRow_cases (w : Stimulus) :
    (UnlistedCls w ∧ decodeRow w = .error .badClass) ∨ (UnlistedOp w ∧ decodeRow w = .error .badOp) ∨
      (ListedOp w ∧ (¬ ∃ r ∈ opcodeTable, r.Matches w) ∧ decodeRow w = .error .reservedBits) ∨
      (ListedOp w ∧ (∃ r ∈ opcodeTable, r.Matches w) ∧ ∃ i, i.ch = wordCh w ∧ decodeRow w = .ok i) := by
  by_cases hl : ListedOp w
  · obtain ⟨r, hr, hop⟩ := sameOp_of_listedOp hl
    obtain ⟨ok, i, hd, hch, -, hok⟩ := armOf_sameOp hr hop
    cases ok with
    | true => exact .inr (.inr (.inr ⟨hl, ⟨r, hr, hok.2 rfl⟩, i, hch, hd⟩))
    | false =>
      refine .inr (.inr (.inl ⟨hl, ?_, hd⟩))
      rintro ⟨r', hr', hm⟩
      obtain ⟨hc, ho⟩ := sameOp_of_matches hr' hm
      obtain rfl := row_eq_of_op r hr r' hr' (hop.1.symm.trans hc) (hop.2.symm.trans ho)
      exact Bool.false_ne_true (hok.1 hm)
  by_cases h1 : wordCls w = 1
  · have ho : 9 ≤ (wordOp w).toNat := Nat.le_of_not_lt fun h => hl (.inl ⟨h1, h⟩)
    exact .inr (.inl ⟨.inl ⟨h1, ho⟩, (decodeRow_fg h1).trans (decodeFg_badOp ho)⟩)
  by_cases h2 : wordCls w = 2
  · have ho : 3 ≤ (wordOp w).toNat := Nat.le_of_not_lt fun h => hl (.inr ⟨.inl h2, h⟩)
    exact .inr (.inl ⟨.inr ⟨.inl h2, ho⟩, (decodeRow_isr h2).trans (decodeIsr_badOp ho)⟩)
  by_cases h3 : wordCls w = 3
  · have ho : 3 ≤ (wordOp w).toNat := Nat.le_of_not_lt fun h => hl (.inr ⟨.inr h3, h⟩)
    exact .inr (.inl ⟨.inr ⟨.inr h3, ho⟩, (decodeRow_per h3).trans (decodePer_badOp ho)⟩)
  · exact .inl ⟨⟨h1, h2, h3⟩, decodeRow_badClass h1 h2 h3⟩

theorem decode_of_row_error {nch : Nat} {e : DecodeError} (h : decodeRow w = .error e) : decode nch w = .error e := by
  rw [decode, h]

theorem decode_of_row_ok {nch : Nat} {i : Instr} (h : decodeRow w = .ok i) (hch : i.ch = wordCh w) :
    decode nch w = if (wordCh w).toNat < nch then .ok i else .error .absentChannel := by
  simp only [decode, h, hch]

/-- The clauses (a) to (d) of R64: in each case of `decodeRow_cases` one of them is true and the others are false. -/
theorem decode_first_clause (nch : Nat) (w : Stimulus) :
    (decode nch w = .error .badClass ↔ UnlistedCls w) ∧
    (decode nch w = .error .badOp ↔ UnlistedOp w) ∧
    (decode nch w = .error .reservedBits ↔ ListedOp w ∧ ∀ r ∈ opcodeTable, ¬ r.Matches w) ∧
    (decode nch w = .error .absentChannel ↔ (∃ r ∈ opcodeTable, r.Matches w) ∧ nch ≤ (wordCh w).toNat) ∧
    ((∃ i, decode nch w = .ok i) ↔ (∃ r ∈ opcodeTable, r.Matches w) ∧ (wordCh w).toNat < nch) := by
  have no_row : (∀ r ∈ opcodeTable, ¬ r.Matches w) ↔ ¬ ∃ r ∈ opcodeTable, r.Matches w := by simp only [not_exists, not_and]
  have no_match (h : ¬ ListedOp w) : ¬ ∃ r ∈ opcodeTable, r.Matches w := fun ⟨_, hr, hm⟩ => h (listedOp_of_matches hr hm)
  rw [no_row]
  rcases decodeRow_cases w with ⟨hcls, hd⟩ | ⟨hop, hd⟩ | ⟨hl, hno, hd⟩ | ⟨hl, hm, i, hch, hd⟩
  · have hl := not_listedOp_of_unlistedCls hcls
    simp only [decode_of_row_error hd, hcls, not_unlistedOp_of_unlistedCls hcls, hl, no_match hl, reduceCtorEq,
      Except.error.injEq, false_and, exists_false, and_self]
  · have hl := not_listedOp_of_unlistedOp hop
    have hcls : ¬ UnlistedCls w := fun h => not_unlistedOp_of_unlistedCls h hop
    simp only [decode_of_row_error hd, hop, hcls, hl, no_match hl, reduceCtorEq, Except.error.injEq, false_and,
      exists_false, and_self]
  · have hcls : ¬ UnlistedCls w := fun h => not_listedOp_of_unlistedCls h hl
    have hop : ¬ UnlistedOp w := fun h => not_listedOp_of_unlistedOp h hl
    simp only [decode_of_row_error hd, hop, hcls, hl, hno, reduceCtorEq, Except.error.injEq, false_and, exists_false,
      and_self, not_false_eq_true]
  · have hcls : ¬ UnlistedCls w := fun h => not_listedOp_of_unlistedCls h hl
    have hop : ¬ UnlistedOp w := fun h => not_listedOp_of_unlistedOp h hl
    rw [decode_of_row_ok hd hch]
    by_cases hlt : (wordCh w).toNat < nch
    · simp [hop, hcls, hm, hlt]
    · simp [hop, hcls, hm, hlt, Nat.le_of_not_lt hlt]

/-! ### The byte form of a word (R42) -/

/-- Byte `k` of a word's byte form holds bits `8k+7` to `8k`. -/
theorem wordBytes_extract {n m k : Nat} (x : BitVec m) (h : k < n) :
    (wordBytes n x.toNat)[k]? = some (x.extractLsb' (8 * k) 8) := by
  have byte : 256 ^ k = 2 ^ (8 * k) := (Nat.pow_mul 2 8 k).symm
  rw [wordBytes_getElem? x.toNat h, byte, ← Nat.shiftRight_eq_div_pow, BitVec.extractLsb']

/-- The bytes at the front of a stream give the word back. -/
theorem bytesValue_take {n m : Nat} (x : BitVec m) (rest : List Byte) (h : 2 ^ m = 256 ^ n) :
    bytesValue ((wordBytes n x.toNat ++ rest).take n) = x.toNat := by
  rw [List.take_left' (wordBytes_length n x.toNat), bytesValue_wordBytes, ← h, Nat.mod_eq_of_lt x.isLt]

/-! ### The obligations -/

/-- Settles O6: the stream is long enough, and its first eight bytes are the word's. -/
theorem bytesOfAWordDecodeAsTheWord : Obligations.BytesOfAWordDecodeAsTheWord := by
  intro nch w rest
  have long : ¬ (wordBytes 8 w.toNat ++ rest).length < 8 := by rw [List.length_append, wordBytes_length]; omega
  rw [decodeBytes, if_neg long, bytesValue_take w rest (by norm_num), BitVec.ofNat_toNat, BitVec.setWidth_eq,
    List.drop_left' (wordBytes_length 8 w.toNat)]
  cases decode nch w <;> rfl

/-- Settles O59: both word sizes are `wordBytes`, and a response is read back as its two bytes' value. -/
theorem storedWordsAreLittleEndian : Obligations.StoredWordsAreLittleEndian := by
  refine ⟨fun w => ⟨wordBytes_length 8 w.toNat, fun k hk => wordBytes_extract w hk⟩,
    fun r => ⟨wordBytes_length 2 r.toNat, fun k hk => wordBytes_extract r hk⟩, fun r rest => ?_⟩
  have long : ¬ (wordBytes 2 r.toNat ++ rest).length < 2 := by rw [List.length_append, wordBytes_length]; omega
  rw [respBytes, readResp, if_neg long, bytesValue_take r rest (by norm_num), BitVec.ofNat_toNat, BitVec.setWidth_eq,
    List.drop_left' (wordBytes_length 2 r.toNat)]

/-- Settles O5: each clause is one evaluation of the decoder or the assembler. -/
theorem workedEncodingsDecodeAndAssemble : Obligations.WorkedEncodingsDecodeAndAssemble := by
  unfold Obligations.WorkedEncodingsDecodeAndAssemble
  decide

end Sys2Proof
end

section
/-! PROOFS. The circular buffer as a queue (R12, R80 to R85): how `push`, `pop` and `clear` act on the queued elements, and the
FIFO law. -/

namespace Sys2Proof.Machine

variable {w n : Nat} {b : Buf w}

/-! ### The queued elements -/

@[simp] theorem queued_empty (h : b.count = 0) : queued n b = [] := by simp [queued, h]

/-- `queued` does not read the overflow indicator. -/
@[simp] theorem queued_ovf (o : Bool) : queued n { b with ovf := o } = queued n b := rfl

/-- From the invariant every queued slot holds an element. -/
theorem queued_length (hb : b.Inv n) : (queued n b).length = b.count := by
  rw [queued, List.filterMap_length_eq_length.2, List.length_range]
  exact fun j hj => hb.written j (List.mem_range.1 hj)

/-- Fewer than `n` places from the tail, two places are two slots. -/
theorem slot_ne {t j k : Nat} (hjk : j < k) (hk : k < n) : (t + j) % n ≠ (t + k) % n := by
  intro h
  have cong : j ≡ k [MOD n] := Nat.ModEq.add_left_cancel' t h
  exact Nat.ne_of_lt hjk (cong.eq_of_lt_of_lt (hjk.trans hk) hk)

/-- `push` with room appends its element (R80). -/
theorem queued_push (v : BitVec w) (hb : b.Inv n) (room : b.count < n) : queued n (push n b v).1 = queued n b ++ [v] := by
  have kept : ∀ j ∈ List.range b.count,
      Memory.read (Memory.write b.storage b.head v) ((b.tail + j) % n) = Memory.read b.storage ((b.tail + j) % n) := by
    intro j hj
    rw [hb.congruent]
    exact read_write_other _ v (slot_ne (List.mem_range.1 hj) room)
  have new : Memory.read (Memory.write b.storage b.head v) ((b.tail + b.count) % n) = some v := by
    rw [← hb.congruent, read_write_same]
  rw [push_room v (Nat.ne_of_lt room)]
  simp only [queued, List.range_succ, List.filterMap_append, List.filterMap_congr kept, List.filterMap_cons, new,
    List.filterMap_nil]

/-- `pop` takes the oldest element off the front (R81). -/
theorem queued_pop {v : BitVec w} (hb : b.Inv n) (hc : b.count ≠ 0) (hv : b.storage.read b.tail = some v) :
    queued n b = v :: queued n { b with tail := (b.tail + 1) % n, count := b.count - 1 } := by
  obtain ⟨k, hk⟩ := Nat.exists_eq_succ_of_ne_zero hc
  have oldest : b.storage.read ((b.tail + 0) % n) = some v := by rw [Nat.add_zero, Nat.mod_eq_of_lt hb.tailLt, hv]
  have shifted : (fun j => b.storage.read ((b.tail + (j + 1)) % n)) = fun j => b.storage.read (((b.tail + 1) % n + j) % n) := by
    funext j
    rw [Nat.mod_add_mod, Nat.add_assoc, Nat.add_comm 1 j]
  simp only [queued, hk, List.range_succ_eq_map, List.filterMap_cons, oldest, List.filterMap_map, Function.comp_def,
    Nat.succ_eq_add_one, shifted, Nat.add_sub_cancel]

/-! ### `push` and `pop` as queue operations -/

/-- What `push` stores is appended, whether it had room or not (R80, R86). -/
theorem queued_push_cases (v : BitVec w) (hb : b.Inv n) :
    queued n (push n b v).1 = queued n b ++ if (push n b v).2 then [v] else [] := by
  by_cases room : b.count < n
  · rw [queued_push v hb room, push_room v (Nat.ne_of_lt room), if_pos rfl]
  · rw [push_full v (Nat.le_antisymm hb.countLe (Nat.le_of_not_lt room)), queued_ovf, if_neg Bool.false_ne_true,
      List.append_nil]

/-- From the invariant `pop` does not fault: it answers the front of the queue and leaves the rest (R81). -/
theorem pop_queued (hb : b.Inv n) :
    ∃ b', pop n b = .ok ((queued n b).head?, b') ∧ b'.Inv n ∧ queued n b' = (queued n b).tail := by
  by_cases hc : b.count = 0
  · have hq : queued n b = [] := queued_empty hc
    exact ⟨b, by rw [pop_empty hc, hq, List.head?_nil], hb, by rw [hq, List.tail_nil]⟩
  · obtain ⟨v, hv⟩ := oldest_written hb hc
    have hq := queued_pop hb hc hv
    have hp := pop_some (n := n) hc hv
    exact ⟨_, by rw [hp, hq, List.head?_cons], pop_inv hb hp, by rw [hq, List.tail_cons]⟩

/-! ### The obligations -/

/-- Settles O43: each clause is a queue lemma of `push`, `pop` or `clear`. -/
theorem bufferPrimitivesActAsAQueue : Obligations.BufferPrimitivesActAsAQueue := by
  intro w n b v hb
  obtain ⟨b', hp, -, hq⟩ := pop_queued hb
  refine ⟨queued_length hb, fun room => ⟨?stored, queued_push v hb room⟩, fun full => push_full v full, ⟨b', hp, hq⟩,
    queued_empty (clear_count b)⟩
  case stored => rw [push_room v (Nat.ne_of_lt room)]

/-- Settles O44: by induction over the calls; `push` moves its element from what is stored to the back of the queue, `pop` from
the front of the queue to what is returned. -/
theorem fifoLawOfCallSequences : Obligations.FifoLawOfCallSequences := by
  intro w n ops
  induction ops with
  | nil => intro b hb; exact ⟨[], [], b, rfl, hb, by simp⟩
  | cons op ops ih =>
    intro b hb
    cases op with
    | push v =>
      obtain ⟨stored, out, b', hrun, hinv, hlaw⟩ := ih _ (push_inv v hb)
      refine ⟨if (push n b v).2 then v :: stored else stored, out, b', by simp only [runBuf, hrun], hinv, ?_⟩
      rw [← hlaw, queued_push_cases v hb]
      cases (push n b v).2 <;> simp
    | pop =>
      obtain ⟨b1, hp, hb1, hq⟩ := pop_queued hb
      obtain ⟨stored, out, b', hrun, hinv, hlaw⟩ := ih b1 hb1
      refine ⟨stored, (queued n b).head?.toList ++ out, b', by simp only [runBuf, hp, hrun], hinv, ?_⟩
      rw [List.append_assoc, ← hlaw, hq, ← List.append_assoc]
      cases queued n b <;> simp

end Sys2Proof.Machine
end

section
/-! PROOFS. The commands that can be held (R114, R118), and what refuses a stimulus: an absent channel, the port in use, a
handler or a move whose condition is false (R7, R8, R10, R90, R139). -/

namespace Sys2Proof.Machine

variable {s t : State} {ch : BitVec 4} {c c' : Channel} {i : Instr}

/-! ### `FG.WRITE` and `FG.FLUSH` with the port free (R110, R114, R118) -/

theorem writeGuard_iff {p : Params} : writeGuard p c = true ↔ c.mode = .stopped ∨ c.tx.count < p.nTx := by
  rw [writeGuard, Bool.or_eq_true, beq_iff_eq, decide_eq_true_eq]

theorem flushGuard_iff : flushGuard c = true ↔ c.mode = .stopped ∨ (c.tx.count = 0 ∧ c.mode ≠ .transmitting) := by
  rw [flushGuard, Bool.or_eq_true, Bool.and_eq_true, beq_iff_eq, beq_iff_eq, bne_iff_ne]

section PortFree

variable (hc : s.chan? ch = some c) (hh : s.held = none)
include hc hh

theorem exec_fgWrite {nb : Bool} (data : Byte) (hg : (nb || writeGuard s.par c) = true) :
    exec (.fgWrite ch nb data) s = respond s ch (writeChannel s.par c data) :=
  (foreground_eq hc hh _).trans (if_pos hg)

theorem exec_fgWrite_held (data : Byte) (hg : writeGuard s.par c = false) :
    exec (.fgWrite ch false data) s = .next (s.hold (.write ch data)) :=
  (foreground_eq hc hh _).trans (if_neg (Bool.eq_false_iff.1 hg))

theorem exec_fgFlush (hg : flushGuard c = true) : exec (.fgFlush ch) s = respond s ch (c, 0) :=
  (foreground_eq hc hh _).trans (if_pos hg)

theorem exec_fgFlush_held (hg : flushGuard c = false) : exec (.fgFlush ch) s = .next (s.hold (.flush ch)) :=
  (foreground_eq hc hh _).trans (if_neg (Bool.eq_false_iff.1 hg))

end PortFree

/-- R114: on a stopped channel the write is a no-op. -/
theorem writeChannel_stopped (p : Params) (data : Byte) (hm : c.mode = .stopped) : writeChannel p c data = (c, 0) :=
  if_pos hm

/-- R114, R86: on a full buffer the write is refused. -/
theorem writeChannel_full {p : Params} (data : Byte) (hm : c.mode ≠ .stopped) (hf : c.tx.count = p.nTx) :
    writeChannel p c data = ({ c with tx := { c.tx with ovf := true } }, 0) := by
  rcases writeChannel_cases p c data with ⟨hs, -⟩ | ⟨-, -, h⟩ | ⟨-, hr, -⟩
  · exact absurd hs hm
  · exact h
  · exact absurd hf hr

/-- R114, R102: with room the byte is accepted. -/
theorem writeChannel_accepted {p : Params} (data : Byte) (hm : c.mode ≠ .stopped) (hr : c.tx.count ≠ p.nTx) :
    writeChannel p c data =
      ({ c with
        tx := (push p.nTx c.tx data).1
        mode := .transmitting
        dreie := true
        txcie := if c.mode = .idle then true else c.txcie
        rxcie := if c.mode = .idle ∧ c.hd = true then false else c.rxcie
        skip := if c.mode = .idle ∧ c.hd = true then true else c.skip }, 1) := by
  rcases writeChannel_cases p c data with ⟨hs, -⟩ | ⟨-, hf, -⟩ | ⟨-, -, h2, h1⟩
  · exact absurd hs hm
  · exact absurd hf hr
  · exact Prod.ext h1 h2

/-- Settles O17: the guard is true, and the accepted write's `push` has room. -/
theorem fgWriteEnqueuesTheByte : Obligations.FgWriteEnqueuesTheByte := by
  intro s ch nb data c hc hh hm room
  have guard : (nb || writeGuard s.par c) = true := by rw [writeGuard_iff.2 (.inr room), Bool.or_true]
  have not_full : c.tx.count ≠ s.par.nTx := Nat.ne_of_lt room
  rw [exec_fgWrite hc hh data guard, writeChannel_accepted data hm not_full, push_room data not_full]
  rfl

/-- Settles O18: a stopped channel holds nothing, and the write is a no-op. -/
theorem fgWriteWhileStoppedIsANoOp : Obligations.FgWriteWhileStoppedIsANoOp := by
  intro s ch nb data c hc hh hm
  have guard : (nb || writeGuard s.par c) = true := by rw [writeGuard_iff.2 (.inl hm), Bool.or_true]
  rw [exec_fgWrite hc hh data guard, writeChannel_stopped s.par data hm]
  rfl

/-- Settles O19: the guard of the blocking form is false, and the other form has none. -/
theorem fgWriteOnAFullBufferIsRefusedOrHeld : Obligations.FgWriteOnAFullBufferIsRefusedOrHeld := by
  intro s ch data c hc hh hm hf
  have guard : writeGuard s.par c = false := by
    rw [Bool.eq_false_iff, ne_eq, writeGuard_iff]
    rintro (hs | room)
    · exact hm hs
    · omega
  constructor
  · rw [exec_fgWrite hc hh data (Bool.true_or _), writeChannel_full data hm hf]
    rfl
  · exact exec_fgWrite_held hc hh data guard

/-- Settles O23: the two clauses are the guard of R118 and its negation. -/
theorem fgFlushReturnsOrIsHeld : Obligations.FgFlushReturnsOrIsHeld := by
  intro s ch c hc hh
  constructor
  · intro guard
    exact exec_fgFlush hc hh (flushGuard_iff.2 guard)
  · intro guard
    exact exec_fgFlush_held hc hh (Bool.eq_false_iff.2 fun h => guard (flushGuard_iff.1 h))

/-! ### What refuses a stimulus -/

/-- Settles O9: the nine commands go through the port, which is in use. -/
theorem foregroundIsRefusedWhileACommandIsHeld : Obligations.ForegroundIsRefusedWhileACommandIsHeld := by
  intro s i c hfg hc hh
  cases i with
  | fgInit | fgStart | fgStop | fgWrite | fgRead | fgAvail | fgFree | fgFlush | fgStatus => exact foreground_busy hc hh _
  | isrDre | isrRxc | isrTxc | perRxframe | perLoad | perShiftdone => cases hfg

/-- Settles O10: every meaning looks its channel up first. -/
theorem absentChannelIsRefused : Obligations.AbsentChannelIsRefused := by
  intro s i h
  have absent : s.chan? i.ch = none := List.getElem?_eq_none h
  cases i <;> exact onChannel_absent absent _

theorem dre_notPending (h : c.dreie = false ∨ c.txdr ≠ none) : pending c .dre = false := by
  rw [Bool.eq_false_iff, ne_eq, pending_dre_iff]
  rcases h with h | h <;> simp [h]

theorem rxc_notPending (h : c.rxcie = false ∨ c.rxhold = []) : pending c .rxc = false := by
  rw [Bool.eq_false_iff, ne_eq, pending_rxc_iff]
  rcases h with h | h <;> simp [h]

theorem txc_notPending (h : c.txcie = false ∨ c.txc = false) : pending c .txc = false := by
  rw [Bool.eq_false_iff, ne_eq, pending_txc_iff]
  rcases h with h | h <;> simp [h]

section NotPending

variable (hc : s.chan? ch = some c)
include hc

theorem exec_isrDre_refused (h : pending c .dre = false) : exec (.isrDre ch) s = .refused (.notPending .dre) :=
  dispatch_notPending hc h _

theorem exec_isrRxc_refused (h : pending c .rxc = false) : exec (.isrRxc ch) s = .refused (.notPending .rxc) :=
  dispatch_notPending hc h _

theorem exec_isrTxc_refused (h : pending c .txc = false) : exec (.isrTxc ch) s = .refused (.notPending .txc) :=
  dispatch_notPending hc h _

end NotPending

/-- Settles O28: in each clause the interrupt is not pending. -/
theorem handlersAreRefusedWhenNotPending : Obligations.HandlersAreRefusedWhenNotPending := fun _ _ _ hc =>
  ⟨fun h => exec_isrDre_refused hc (dre_notPending h), fun h => exec_isrRxc_refused hc (rxc_notPending h),
    fun h => exec_isrTxc_refused hc (txc_notPending h)⟩

/-- Settles O58: no handler is pending, and `PER.LOAD` and `PER.SHIFTDONE` have no byte to move. -/
theorem quietChannelRefusesEveryOtherMove : Obligations.QuietChannelRefusesEveryOtherMove := by
  intro s i c hc hq hfg hframe
  obtain ⟨quiet, htxdr, htxsr⟩ := hq
  cases i with
  | fgInit | fgStart | fgStop | fgWrite | fgRead | fgAvail | fgFree | fgFlush | fgStatus => cases hfg
  | isrDre ch => exact ⟨_, exec_isrDre_refused hc (quiet .dre)⟩
  | isrRxc ch => exact ⟨_, exec_isrRxc_refused hc (quiet .rxc)⟩
  | isrTxc ch => exact ⟨_, exec_isrTxc_refused hc (quiet .txc)⟩
  | perRxframe ch err data => exact absurd rfl (hframe ch err data)
  | perLoad ch => exact ⟨_, exec_perLoad_refused hc (loadChannel_disabled (.inl htxdr))⟩
  | perShiftdone ch echo err => exact ⟨_, exec_perShiftdone_refused hc (shiftdoneChannel_disabled _ echo err htxsr)⟩

/-! ### The record a next state holds -/

/-- Every next state has a record of the channel named, which the stimulus's effect describes. -/
theorem exec_next_effect (h : exec i s = .next t) :
    ∃ c c', s.chan? i.ch = some c ∧ t.chan? i.ch = some c' ∧ Effect i s t c c' := by
  obtain ⟨c, hc, ⟨c', r, rfl⟩ | ⟨-, -, cmd, rfl⟩⟩ := exec_next_shape h
  · exact ⟨c, c', hc, put_chan?_same hc c' r, exec_effect h hc (put_chan?_same hc c' r)⟩
  · exact ⟨c, c, hc, hc, exec_effect h hc hc⟩

/-- Settles O30: R91 disables the source or fills the data register. -/
theorem dreIsNotPendingAfterItsHandler : Obligations.DreIsNotPendingAfterItsHandler := by
  intro s t ch c' h hc'
  obtain ⟨c, c1, hc, hc1, -, hdre, -, -⟩ := exec_next_effect h
  obtain rfl : c1 = c' := Option.some.inj (hc1.symm.trans hc')
  rcases dreChannel_ok hdre with ⟨-, rfl⟩ | ⟨-, -, b, -, rfl⟩
  · exact dre_notPending (.inl rfl)
  · exact dre_notPending (.inr (Option.some_ne_none b))

/-! ### From the invariant -/

theorem State.Inv.of_chan? (hs : s.Inv) (hc : s.chan? ch = some c) : c.Inv s.par := hs.chan c (chan?_mem hc)

/-- From the invariant `FG.READ` does not fault. -/
theorem readChannel_runs {p : Params} (hi : c.Inv p) : ∃ c' r, readChannel p c = .ok (c', r) := by
  obtain ⟨b', hp, -, -⟩ := pop_queued hi.rx
  exact ⟨_, _, by rw [readChannel, hp]⟩

/-- From the invariant a pending `ISR.DRE` does not fault: its data register is empty. -/
theorem dreChannel_runs {p : Params} (hi : c.Inv p) (hp : pending c .dre = true) : ∃ c', dreChannel p c = .ok c' := by
  obtain ⟨-, ht⟩ := pending_dre_iff.1 hp
  by_cases h0 : c.tx.count = 0
  · exact ⟨_, dreChannel_empty p h0⟩
  · obtain ⟨b, hb⟩ := oldest_written hi.tx h0
    exact ⟨_, dreChannel_queued p h0 hb ht⟩

/-- A pending `ISR.RXC` has a frame to take. -/
theorem rxcChannel_runs (p : Params) (hp : pending c .rxc = true) : ∃ c', rxcChannel p c = some c' := by
  obtain ⟨v, rest, hh⟩ := List.exists_cons_of_ne_nil (pending_rxc_iff.1 hp).2
  exact ⟨_, rxcChannel_held p hh⟩

/-- Settles O29: a handler that is not pending is refused, and from the invariant a pending one has an answer. -/
theorem handlerRunsExactlyWhenPending : Obligations.HandlerRunsExactlyWhenPending := by
  intro s ch c hs hc
  refine ⟨⟨fun ⟨t, h⟩ => ?_, fun hp => ?_⟩, ⟨fun ⟨t, h⟩ => ?_, fun hp => ?_⟩, ⟨fun ⟨t, h⟩ => ?_, fun hp => ?_⟩⟩
  · by_contra hp
    rw [exec_isrDre_refused hc (Bool.eq_false_iff.2 hp)] at h
    cases h
  · obtain ⟨c', h⟩ := dreChannel_runs (hs.of_chan? hc) hp
    exact ⟨_, exec_isrDre hc hp h⟩
  · by_contra hp
    rw [exec_isrRxc_refused hc (Bool.eq_false_iff.2 hp)] at h
    cases h
  · obtain ⟨c', h⟩ := rxcChannel_runs s.par hp
    exact ⟨_, exec_isrRxc hc hp h⟩
  · by_contra hp
    rw [exec_isrTxc_refused hc (Bool.eq_false_iff.2 hp)] at h
    cases h
  · exact ⟨_, exec_isrTxc hc hp⟩

/-- A count that a capacity of R4 bounds is its own 16-bit response. -/
theorem respCount_toNat {k n : Nat} (hk : k ≤ 15) (hn : n ≤ 2 ^ k) : (respCount n).toNat = n := by
  have : 2 ^ k ≤ 2 ^ 15 := Nat.pow_le_pow_right (by decide) hk
  rw [respCount, BitVec.toNat_ofNat, Nat.mod_eq_of_lt (by omega)]

/-- Settles O22: a count and a capacity less a count are at most `2 ^ 15`. -/
theorem queryAnswersAreExact : Obligations.QueryAnswersAreExact := by
  intro s ch c hs hc hh
  obtain ⟨⟨-, hkRx⟩, ⟨-, hkTx⟩, -⟩ := hs.params
  have hi := hs.of_chan? hc
  have avail := respCount_toNat hkRx hi.rx.countLe
  have free := respCount_toNat hkTx (Nat.sub_le s.par.nTx c.tx.count)
  refine ⟨_, _, _, _, exec_fgAvail hc hh, rfl, avail, ?_, exec_fgFree hc hh, rfl, ?_⟩
  · exact avail.trans_le hi.rx.countLe
  · rw [freeSpace, free, Nat.sub_add_cancel hi.tx.countLe]

end Sys2Proof.Machine
end

section
/-! PROOFS. The step (R6 to R8, R64): a held command whose guard is true goes first, else the next stimulus word is run or
refused; and what a step that answers a next state was. -/

namespace Sys2Proof.Machine

variable {s t : State} {ch : BitVec 4} {c : Channel} {cmd : HeldCmd} {i : Instr}

/-! ### Whose turn it is -/

/-- A held command's guard in the two spellings of the model. -/
theorem heldReady_of_guard (hh : s.held = some cmd) (hc : s.chan? (heldCh cmd) = some c) (hg : HeldGuard s.par c cmd) :
    heldReady s = some (heldInstr cmd) := by
  cases cmd with
  | write ch data =>
    change s.chan? ch = some c at hc
    simp only [heldReady, hh, hc, writeGuard_iff.2 hg, if_true]
  | flush ch =>
    change s.chan? ch = some c at hc
    simp only [heldReady, hh, hc, flushGuard_iff.2 hg, if_true]

theorem heldReady_some (h : heldReady s = some i) :
    ∃ cmd c, s.held = some cmd ∧ s.chan? (heldCh cmd) = some c ∧ HeldGuard s.par c cmd ∧ i = heldInstr cmd := by
  unfold heldReady at h
  split at h
  case h_1 => cases h
  case h_2 ch data hh =>
    split at h
    · cases h
    · next c hc =>
      split at h
      · next hg => cases h; exact ⟨_, c, hh, hc, writeGuard_iff.1 hg, rfl⟩
      · cases h
  case h_3 ch hh =>
    split at h
    · cases h
    · next c hc =>
      split at h
      · next hg => cases h; exact ⟨_, c, hh, hc, flushGuard_iff.1 hg, rfl⟩
      · cases h

theorem heldReady_eq_none_iff : heldReady s = none ↔ NotReady s := by
  constructor
  · intro h cmd hh c hc hg
    exact Option.some_ne_none _ ((heldReady_of_guard hh hc hg).symm.trans h)
  · intro h
    refine Option.eq_none_iff_forall_ne_some.2 fun i hi => ?_
    obtain ⟨cmd, c, hh, hc, hg, -⟩ := heldReady_some hi
    exact h cmd hh c hc hg

/-- With no command outstanding none is ready. -/
theorem notReady_of_free (h : s.held = none) : NotReady s := fun _ hh => nomatch h.symm.trans hh

/-! ### What a step runs -/

/-- R7: a ready held command. -/
theorem step_held (hh : s.held = some cmd) (hc : s.chan? (heldCh cmd) = some c) (hg : HeldGuard s.par c cmd) :
    step s = exec (heldInstr cmd) { s with held := none } := by
  rw [step, takeTurn, heldReady_of_guard hh hc hg]

/-- A held flush whose guard is true returns 0. -/
theorem step_held_flush (hh : s.held = some (.flush ch)) (hc : s.chan? ch = some c) (hg : HeldGuard s.par c (.flush ch)) :
    step s = .next (State.put { s with held := none } ch c (some 0)) :=
  (step_held hh hc hg).trans (exec_fgFlush (s := { s with held := none }) hc rfl (flushGuard_iff.2 hg))

/-- A held write whose guard is true is performed. -/
theorem step_held_write {data : Byte} (hh : s.held = some (.write ch data)) (hc : s.chan? ch = some c)
    (hg : HeldGuard s.par c (.write ch data)) :
    step s = respond { s with held := none } ch (writeChannel s.par c data) :=
  (step_held hh hc hg).trans (exec_fgWrite (s := { s with held := none }) (nb := false) hc rfl data (writeGuard_iff.2 hg))

/-- R6: the next stimulus word. -/
theorem step_taken {w : Stimulus} {rest : List Stimulus} (hn : NotReady s) (hw : s.stimuli = w :: rest)
    (hd : decode s.chans.length w = .ok i) : step s = exec i { s with stimuli := rest } := by
  rw [step, takeTurn, heldReady_eq_none_iff.2 hn, hw]
  simp only [hd]

/-- R64: an illegal word. -/
theorem step_illegal {w : Stimulus} {rest : List Stimulus} {e : DecodeError} (hn : NotReady s) (hw : s.stimuli = w :: rest)
    (hd : decode s.chans.length w = .error e) : step s = .refused (.illegalWord e) := by
  rw [step, takeTurn, heldReady_eq_none_iff.2 hn, hw]
  simp only [hd]

/-- A step whose turn it is runs the held command with the port free, or the next word of the schedule. -/
theorem takeTurn_ok {s' : State} (h : takeTurn s = .ok (i, s')) :
    (∃ cmd c, s.held = some cmd ∧ s.chan? (heldCh cmd) = some c ∧ HeldGuard s.par c cmd ∧ i = heldInstr cmd ∧
        s' = { s with held := none }) ∨
      (NotReady s ∧ ∃ w rest, s.stimuli = w :: rest ∧ decode s.chans.length w = .ok i ∧ s' = { s with stimuli := rest }) := by
  unfold takeTurn at h
  split at h
  · next j hj =>
    cases h
    obtain ⟨cmd, c, hh, hc, hg, rfl⟩ := heldReady_some hj
    exact .inl ⟨cmd, c, hh, hc, hg, rfl, rfl⟩
  · next hn =>
    split at h
    · cases h
    · next w rest hw =>
      split at h
      · cases h
      · next j hd => cases h; exact .inr ⟨heldReady_eq_none_iff.1 hn, w, rest, hw, hd, rfl⟩

theorem step_next (h : step s = .next t) : ∃ i s', takeTurn s = .ok (i, s') ∧ exec i s' = .next t := by
  unfold step at h
  split at h
  · cases h
  · next i s' ht => exact ⟨i, s', ht, h⟩

theorem step_fault {e : Fault} (h : step s = .fault e) : ∃ i s', takeTurn s = .ok (i, s') ∧ exec i s' = .fault e := by
  unfold step at h
  split at h
  · cases h
  · next i s' ht => exact ⟨i, s', ht, h⟩

/-! ### The obligations -/

/-- Settles O4: the clauses of R64 are the decoder's, and a refused word stops the step. -/
theorem illegalWordsAreRefusedByTheFirstClause : Obligations.IllegalWordsAreRefusedByTheFirstClause :=
  ⟨decode_first_clause, fun _ _ _ _ hn hw hd => step_illegal hn hw hd⟩

/-- Settles O7. -/
theorem stepRunsTheDecodedStimulus : Obligations.StepRunsTheDecodedStimulus :=
  fun _ _ _ _ hn hw hd => step_taken hn hw hd

/-- Settles O8: with its guard true the command is performed, since only a false guard holds it again. -/
theorem heldCommandIsPerformedOnceItsGuardIsTrue : Obligations.HeldCommandIsPerformedOnceItsGuardIsTrue := by
  intro s cmd c hh hc hg
  refine ⟨step_held hh hc hg, ?_⟩
  cases cmd with
  | write ch data => exact ⟨_, step_held_write hh hc hg, rfl, rfl, rfl⟩
  | flush ch => exact ⟨_, step_held_flush hh hc hg, rfl, rfl, rfl⟩

end Sys2Proof.Machine
end

section
/-! PROOFS. Frames: what a stimulus leaves unchanged outside its channel, what it reads, and which fields of its channel each
may change. -/

namespace Sys2Proof.Machine

variable {s t : State} {ch : BitVec 4} {c c' : Channel} {i : Instr}

/-! ### Nothing outside the channel named is written (R6, R148) -/

/-- Settles O34: a next state is a put in the channel named, or a hold. -/
theorem stepWritesOnlyItsOwnChannel : Obligations.StepWritesOnlyItsOwnChannel := by
  intro i s t h
  obtain ⟨c, -, ⟨c', r, rfl⟩ | ⟨-, -, cmd, rfl⟩⟩ := exec_next_shape h
  · exact ⟨rfl, rfl, put_length s i.ch c' r, fun k hk => put_chans_other s i.ch c' r hk⟩
  · exact ⟨rfl, rfl, rfl, fun _ _ => rfl⟩

theorem exec_par (h : exec i s = .next t) : t.par = s.par := by
  obtain ⟨hpar, -, -, -⟩ := stepWritesOnlyItsOwnChannel i s t h
  exact hpar

theorem exec_stimuli (h : exec i s = .next t) : t.stimuli = s.stimuli := by
  obtain ⟨-, hstim, -, -⟩ := stepWritesOnlyItsOwnChannel i s t h
  exact hstim

theorem exec_length (h : exec i s = .next t) : t.chans.length = s.chans.length := by
  obtain ⟨-, -, hlen, -⟩ := stepWritesOnlyItsOwnChannel i s t h
  exact hlen

theorem exec_chan?_other (h : exec i s = .next t) (hne : ch ≠ i.ch) : t.chan? ch = s.chan? ch := by
  obtain ⟨-, -, -, hother⟩ := stepWritesOnlyItsOwnChannel i s t h
  exact hother ch.toNat fun he => hne (BitVec.eq_of_toNat_eq he)

/-! ### Nothing outside the channel named is read (R6) -/

section Agree

variable {s' : State} {f f' : Channel → Result}

theorem onChannel_agree (hch : s.chan? ch = s'.chan? ch)
    (hf : ∀ c, s.chan? ch = some c → s'.chan? ch = some c → AgreeOn ch (f c) (f' c)) :
    AgreeOn ch (onChannel s ch f) (onChannel s' ch f') := by
  cases hc : s.chan? ch with
  | none => rw [onChannel_absent hc, onChannel_absent (hch.symm.trans hc)]; rfl
  | some c =>
    have hc' := hch.symm.trans hc
    rw [onChannel_eq hc, onChannel_eq hc']
    exact hf c hc hc'

theorem foreground_agree (hch : s.chan? ch = s'.chan? ch) (hh : s.held = s'.held)
    (hf : ∀ c, s.chan? ch = some c → s'.chan? ch = some c → AgreeOn ch (f c) (f' c)) :
    AgreeOn ch (foreground s ch f) (foreground s' ch f') := by
  refine onChannel_agree hch fun c hc hc' => ?_
  rw [← hh]
  cases s.held with
  | none => exact hf c hc hc'
  | some cmd => rfl

theorem dispatch_agree (hch : s.chan? ch = s'.chan? ch) (src : Source)
    (hf : ∀ c, s.chan? ch = some c → s'.chan? ch = some c → AgreeOn ch (f c) (f' c)) :
    AgreeOn ch (dispatch s ch src f) (dispatch s' ch src f') := by
  refine onChannel_agree hch fun c hc hc' => ?_
  cases hp : pending c src with
  | true => exact hf c hc hc'
  | false => rfl

theorem put_agree (hh : s.held = s'.held) (hc : s.chan? ch = some c) (hc' : s'.chan? ch = some c) (c1 : Channel)
    (r : Option Resp) : AgreeOn ch (.next (s.put ch c1 r)) (.next (s'.put ch c1 r)) :=
  ⟨(put_chan?_same hc c1 r).trans (put_chan?_same hc' c1 r).symm, hh, rfl⟩

theorem hold_agree (hch : s.chan? ch = s'.chan? ch) (cmd : HeldCmd) :
    AgreeOn ch (.next (s.hold cmd)) (.next (s'.hold cmd)) := ⟨hch, rfl, rfl⟩

/-- Settles O35: the two states differ in nothing that a meaning looks at. -/
theorem stepReadsOnlyItsOwnChannel : Obligations.StepReadsOnlyItsOwnChannel := by
  intro i s s' hpar hh hch
  cases i with
  | fgInit | fgFree =>
    refine foreground_agree hch hh fun c hc hc' => ?_
    rw [hpar]
    exact put_agree hh hc hc' _ _
  | fgStart | fgStop | fgAvail | fgStatus => exact foreground_agree hch hh fun c hc hc' => put_agree hh hc hc' _ _
  | fgWrite ch nb data =>
    refine foreground_agree hch hh fun c hc hc' => ?_
    rw [hpar]
    split
    · exact put_agree hh hc hc' _ _
    · exact hold_agree hch _
  | fgRead ch =>
    refine foreground_agree hch hh fun c hc hc' => ?_
    rw [hpar]
    cases readChannel s'.par c with
    | error e => rfl
    | ok a => exact put_agree hh hc hc' _ _
  | fgFlush ch =>
    refine foreground_agree hch hh fun c hc hc' => ?_
    split
    · exact put_agree hh hc hc' _ _
    · exact hold_agree hch _
  | isrDre ch =>
    refine dispatch_agree hch _ fun c hc hc' => ?_
    rw [hpar]
    cases dreChannel s'.par c with
    | error e => rfl
    | ok a => exact put_agree hh hc hc' _ _
  | isrRxc ch =>
    refine dispatch_agree hch _ fun c hc hc' => ?_
    rw [hpar]
    cases rxcChannel s'.par c with
    | none => rfl
    | some a => exact put_agree hh hc hc' _ _
  | isrTxc ch => exact dispatch_agree hch _ fun c hc hc' => put_agree hh hc hc' _ _
  | perRxframe ch err data =>
    refine onChannel_agree hch fun c hc hc' => ?_
    rw [hpar]
    exact put_agree hh hc hc' _ _
  | perLoad ch =>
    refine onChannel_agree hch fun c hc hc' => ?_
    cases loadChannel c with
    | none => rfl
    | some a => exact put_agree hh hc hc' _ _
  | perShiftdone ch echo err =>
    refine onChannel_agree hch fun c hc hc' => ?_
    rw [hpar]
    cases shiftdoneChannel s'.par.hwRxDepth c echo err with
    | none => rfl
    | some a => exact put_agree hh hc hc' _ _

end Agree

/-! ### What each channel function can change -/

/-- What `FG.INIT` does (R111). -/
theorem initChannel_cases (p : Params) (c : Channel) (pmux : BitVec 4) (mode : BitVec 16) (baud : BitVec 32) :
    (p.cfgSupported baud (modeFrame mode) = true ∧
        initChannel p c pmux mode baud =
          (enterIdle { enterStopped c with
            hd := modeHd mode, frame := modeFrame mode, baud := baud, pmux := pmux, configured := true, errs := 0,
            pins := true }, 1)) ∨
      (p.cfgSupported baud (modeFrame mode) = false ∧ initChannel p c pmux mode baud = (enterStopped c, 0)) := by
  cases h : p.cfgSupported baud (modeFrame mode) with
  | true => exact .inl ⟨rfl, initChannel_supported c pmux h⟩
  | false => exact .inr ⟨rfl, initChannel_unsupported c pmux h⟩

/-- What `FG.START` does (R112). -/
theorem startChannel_cases (c : Channel) (f : Bool) :
    (c.configured = true ∧ c.mode = .stopped ∧
        startChannel c f = ({ enterIdle c with pins := if f = true then true else c.pins }, 0)) ∨
      (¬ (c.configured = true ∧ c.mode = .stopped) ∧ startChannel c f = (c, 0)) := by
  by_cases h : c.configured = true ∧ c.mode = .stopped
  · exact .inl ⟨h.1, h.2, startChannel_effective f h.1 h.2⟩
  · exact .inr ⟨h, if_neg h⟩

/-! ### The frames of the fifteen stimuli -/

/-- Settles O36: `clear` keeps a storage, and no transition helper writes a peripheral-side field. -/
theorem frameOfInitStartStop : Obligations.FrameOfInitStartStop := by
  intro s t ch pmux mode baud f c c' hc hc'
  refine ⟨fun h => ?_, fun h => ?_, fun h => ?_⟩
  · obtain ⟨rfl, -, hh⟩ := exec_effect h hc hc'
    rcases initChannel_cases s.par c pmux mode baud with ⟨-, h⟩ | ⟨-, h⟩ <;> rw [h] <;> exact ⟨hh, fun _ => ⟨rfl, rfl⟩, rfl⟩
  · obtain ⟨rfl, -, hh⟩ := exec_effect h hc hc'
    rcases startChannel_cases c f with ⟨-, -, h⟩ | ⟨-, h⟩ <;> rw [h] <;> exact ⟨hh, fun _ => ⟨rfl, rfl⟩, rfl⟩
  · obtain ⟨rfl, -, hh⟩ := exec_effect h hc hc'
    rw [stopChannel_eq]
    exact ⟨hh, rfl⟩

/-- `push` writes no slot but the one at `head`. -/
theorem push_read_other {w n j : Nat} (b : Buf w) (v : BitVec w) (hj : j ≠ b.head) :
    (push n b v).1.storage.read j = b.storage.read j := by
  rcases push_cases n b v with ⟨-, h⟩ | ⟨-, h⟩ <;> rw [h]
  exact read_write_other b.storage v hj

theorem push_tail {w n : Nat} (b : Buf w) (v : BitVec w) : (push n b v).1.tail = b.tail := by
  rcases push_cases n b v with ⟨-, h⟩ | ⟨-, h⟩ <;> rw [h]

/-- Settles O37: only the accepted write's `push` writes a slot. -/
theorem frameOfWrite : Obligations.FrameOfWrite := by
  intro s t ch nb data c c' hc hc' h
  obtain ⟨-, rfl, hr, -⟩ | ⟨-, rfl, -, -⟩ := exec_effect h hc hc'
  · rcases writeChannel_cases s.par c data with ⟨-, h⟩ | ⟨-, -, h⟩ | ⟨-, -, h2, h1⟩
    · rw [h]
      exact ⟨fun _ => rfl, fun _ _ => rfl, fun _ _ => rfl, rfl, rfl⟩
    · rw [h]
      exact ⟨fun _ => rfl, fun _ _ => rfl, fun _ _ => rfl, rfl, rfl⟩
    · rw [h2] at hr
      rw [h1]
      exact ⟨fun _ => rfl, fun j hj => push_read_other c.tx data hj, fun hne => absurd hr hne, push_tail c.tx data, rfl⟩
  · exact ⟨fun _ => rfl, fun _ _ => rfl, fun _ _ => rfl, rfl, rfl⟩

/-- Settles O38: a read is one `pop`, a status read clears the five flags, the others keep the record. -/
theorem frameOfReadAndQueries : Obligations.FrameOfReadAndQueries := by
  intro s t ch c c' hc hc'
  refine ⟨fun h => ?read, fun h => ?status, ?queries, fun h => ?flush⟩
  case read =>
    obtain ⟨r, hread, -, hh⟩ := exec_effect h hc hc'
    rcases readChannel_ok hread with ⟨-, rfl, -⟩ | ⟨-, v, -, -, rfl⟩ <;> exact ⟨hh, rfl⟩
  case status =>
    obtain ⟨rfl, -, hh⟩ := exec_effect h hc hc'
    exact ⟨hh, rfl⟩
  case queries =>
    rintro (h | h)
    · obtain ⟨rfl, -, hh⟩ := exec_effect h hc hc'
      exact ⟨hh, rfl⟩
    · obtain ⟨rfl, -, hh⟩ := exec_effect h hc hc'
      exact ⟨hh, rfl⟩
  case flush => obtain ⟨-, rfl, -, -⟩ | ⟨-, rfl, -, -⟩ := exec_effect h hc hc' <;> rfl

/-- Settles O39: `ISR.DRE` is one `pop`, `ISR.RXC` one `push`, and `ISR.TXC` touches no buffer. -/
theorem frameOfHandlers : Obligations.FrameOfHandlers := by
  intro s t ch c c' hc hc'
  refine ⟨fun h => ?dre, fun h => ?rxc, fun h => ?txc⟩
  case dre =>
    obtain ⟨-, hdre, hr, hh⟩ := exec_effect h hc hc'
    rcases dreChannel_ok hdre with ⟨-, rfl⟩ | ⟨-, -, b, -, rfl⟩ <;> exact ⟨hh, hr, rfl⟩
  case rxc =>
    obtain ⟨-, hrxc, hr, hh⟩ := exec_effect h hc hc'
    obtain ⟨v, rest, -, rfl⟩ := rxcChannel_some hrxc
    refine ⟨hh, hr, fun j hj => push_read_other c.rx v hj, fun full j => ?_, push_tail c.rx v, rfl⟩
    simp only [push_full v full]
  case txc =>
    obtain ⟨-, rfl, hr, hh⟩ := exec_effect h hc hc'
    rcases txcChannel_cases c with ⟨-, -, -, -, h⟩ | ⟨-, -, -, h⟩ | ⟨-, h⟩ <;> rw [h] <;> exact ⟨hh, hr, rfl⟩

/-- Settles O40. -/
theorem frameOfPeripheralMoves : Obligations.FrameOfPeripheralMoves := by
  intro s t ch err data echo c c' hc hc'
  refine ⟨fun h => ?rxframe, fun h => ?load, fun h => ?shiftdone⟩
  case rxframe =>
    obtain ⟨rfl, hr, hh⟩ := exec_effect h hc hc'
    refine ⟨hh, hr, ?_⟩
    unfold receiveFrame
    split <;> rfl
  case load =>
    obtain ⟨hload, hr, hh⟩ := exec_effect h hc hc'
    obtain ⟨b, -, -, rfl⟩ := loadChannel_some hload
    exact ⟨hh, hr, rfl⟩
  case shiftdone =>
    obtain ⟨hshift, hr, hh⟩ := exec_effect h hc hc'
    obtain ⟨b, -, rfl⟩ := shiftdoneChannel_some hshift
    exact ⟨hh, hr, rfl⟩

/-- Settles O51: for each command from its frame. -/
theorem foregroundLeavesThePeripheralAlone : Obligations.ForegroundLeavesThePeripheralAlone := by
  intro s t i c c' hfg h hc hc'
  cases i with
  | fgInit ch pmux mode baud =>
    obtain ⟨hinit, -, -⟩ := frameOfInitStartStop s t ch pmux mode baud false c c' hc hc'
    obtain ⟨-, -, kept⟩ := hinit h
    exact kept
  | fgStart ch f =>
    obtain ⟨-, hstart, -⟩ := frameOfInitStartStop s t ch 0 0 0 f c c' hc hc'
    obtain ⟨-, -, hframe⟩ := hstart h
    rw [hframe]; rfl
  | fgStop ch f =>
    obtain ⟨-, -, hstop⟩ := frameOfInitStartStop s t ch 0 0 0 f c c' hc hc'
    obtain ⟨-, hframe⟩ := hstop h
    rw [hframe]; rfl
  | fgWrite ch nb data =>
    obtain ⟨-, -, -, -, hframe⟩ := frameOfWrite s t ch nb data c c' hc hc' h
    rw [hframe]; rfl
  | fgRead ch =>
    obtain ⟨hread, -, -, -⟩ := frameOfReadAndQueries s t ch c c' hc hc'
    obtain ⟨-, hframe⟩ := hread h
    rw [hframe]; rfl
  | fgAvail ch =>
    obtain ⟨-, -, hquery, -⟩ := frameOfReadAndQueries s t ch c c' hc hc'
    obtain ⟨-, rfl⟩ := hquery (.inl h)
    rfl
  | fgFree ch =>
    obtain ⟨-, -, hquery, -⟩ := frameOfReadAndQueries s t ch c c' hc hc'
    obtain ⟨-, rfl⟩ := hquery (.inr h)
    rfl
  | fgFlush ch =>
    obtain ⟨-, -, -, hflush⟩ := frameOfReadAndQueries s t ch c c' hc hc'
    obtain rfl := hflush h
    rfl
  | fgStatus ch =>
    obtain ⟨-, hstatus, -, -⟩ := frameOfReadAndQueries s t ch c c' hc hc'
    obtain ⟨-, hframe⟩ := hstatus h
    rw [hframe]; rfl
  | isrDre | isrRxc | isrTxc | perRxframe | perLoad | perShiftdone => cases hfg

end Sys2Proof.Machine
end

section
/-! PROOFS. The block's invariant (R31): it holds after reset, every channel function keeps a channel's, every step keeps the
block's, and from it no step faults. -/

namespace Sys2Proof.Machine

variable {s t : State} {ch : BitVec 4} {c c' : Channel} {i : Instr} {p : Params}

/-! ### After reset -/

theorem channel_reset_inv (l : Latches) (p : Params) : (Channel.reset l).Inv p where
  rx := reset_buf_inv 11 (Nat.two_pow_pos p.kRx)
  tx := reset_buf_inv 8 (Nat.two_pow_pos p.kTx)
  stopped := fun _ => ⟨rfl, rfl, rfl⟩
  txcie := by simp [Channel.reset]
  rxcie := by simp [Channel.reset]
  skip := by simp [Channel.reset]
  idleEmpty := fun _ => rfl
  dreie := fun hm => absurd rfl hm
  configured := fun hm => absurd rfl hm
  depth := Nat.zero_le _
  txc := fun h => absurd h Bool.false_ne_true

/-- Settles O12: every channel is a reset channel, and no command is held. -/
theorem resetMeetsTheInvariant : Obligations.ResetMeetsTheInvariant := by
  intro p ls hp hn
  refine ⟨hp, by rw [resetOf_chans, List.length_map]; exact hn, fun c hc => ?_, fun cmd hh => nomatch hh⟩
  rw [resetOf_chans, List.mem_map] at hc
  obtain ⟨l, -, rfl⟩ := hc
  exact channel_reset_inv l p

/-! ### Each channel function keeps the channel's invariant -/

theorem enterStopped_inv (hi : c.Inv p) : (enterStopped c).Inv p :=
  { hi with
    stopped := fun _ => ⟨rfl, rfl, rfl⟩
    txcie := by simp
    rxcie := by simp
    skip := by simp
    idleEmpty := fun hm => nomatch hm
    dreie := fun hm => absurd rfl hm
    configured := fun hm => absurd rfl hm }

theorem enterIdle_inv (hi : c.Inv p) (hcfg : c.configured = true) : (enterIdle c).Inv p :=
  { hi with
    rx := clear_inv hi.rx
    tx := clear_inv hi.tx
    stopped := fun hm => nomatch hm
    txcie := by simp
    rxcie := by simp
    skip := by simp
    idleEmpty := fun _ => rfl
    dreie := by simp
    configured := fun _ => hcfg }

theorem initChannel_inv (hi : c.Inv p) (pmux : BitVec 4) (mode : BitVec 16) (baud : BitVec 32) :
    (initChannel p c pmux mode baud).1.Inv p := by
  have stopped := enterStopped_inv hi
  rcases initChannel_cases p c pmux mode baud with ⟨-, h⟩ | ⟨-, h⟩ <;> rw [h]
  · refine enterIdle_inv ?_ rfl
    exact { stopped with rxcie := by simp, skip := by simp, configured := fun _ => rfl }
  · exact stopped

theorem startChannel_inv (hi : c.Inv p) (f : Bool) : (startChannel c f).1.Inv p := by
  rcases startChannel_cases c f with ⟨hcfg, -, h⟩ | ⟨-, h⟩ <;> rw [h]
  · exact { enterIdle_inv hi hcfg with }
  · exact hi

theorem stopChannel_inv (hi : c.Inv p) (f : Bool) : (stopChannel c f).1.Inv p := by
  rw [stopChannel_eq]
  exact { enterStopped_inv hi with }

theorem push_count_room {w n : Nat} {b : Buf w} (v : BitVec w) (h : b.count ≠ n) : (push n b v).1.count = b.count + 1 := by
  rw [push_room v h]

theorem writeChannel_inv (hi : c.Inv p) (data : Byte) : (writeChannel p c data).1.Inv p := by
  rcases writeChannel_cases p c data with ⟨-, h⟩ | ⟨-, -, h⟩ | ⟨hm, room, -, h⟩ <;> rw [h]
  · exact hi
  · exact { hi with tx := { hi.tx with } }
  · have htxcie := hi.txcie
    have hrxcie := hi.rxcie
    have hskip := hi.skip
    refine
      { hi with
        tx := push_inv data hi.tx
        stopped := fun hm => nomatch hm
        txcie := ?_
        rxcie := ?_
        skip := ?_
        idleEmpty := fun hm => nomatch hm
        dreie := fun _ => by simp [push_count_room data room]
        configured := fun _ => hi.configured hm }
    all_goals
      cases hmode : c.mode with
      | stopped => exact absurd hmode hm
      | idle => cases hd : c.hd <;> simp_all
      | transmitting => simp_all

theorem readChannel_inv {r : Resp} (hi : c.Inv p) (h : readChannel p c = .ok (c', r)) : c'.Inv p := by
  rcases readChannel_ok h with ⟨-, rfl, -⟩ | ⟨h0, v, hv, -, rfl⟩
  · exact hi
  · exact { hi with rx := pop_inv hi.rx (pop_some h0 hv) }

theorem statusChannel_inv (hi : c.Inv p) : (statusChannel c).1.Inv p :=
  { hi with rx := { hi.rx with }, tx := { hi.tx with } }

theorem dreChannel_inv (hi : c.Inv p) (hp : pending c .dre = true) (h : dreChannel p c = .ok c') : c'.Inv p := by
  obtain ⟨hen, -⟩ := pending_dre_iff.1 hp
  have running : c.mode ≠ .stopped := fun hm => Bool.false_ne_true ((hi.stopped hm).1.symm.trans hen)
  rcases dreChannel_ok h with ⟨h0, rfl⟩ | ⟨h0, -, b, hb, rfl⟩
  · exact
      { hi with
        stopped := fun hm => absurd hm running
        dreie := fun _ => by simp [h0] }
  · refine
      { hi with
        tx := pop_inv hi.tx (pop_some h0 hb)
        stopped := fun hm => absurd hm running
        idleEmpty := fun hm => absurd (hi.idleEmpty hm) h0
        dreie := fun _ => ?_
        txc := fun h => nomatch h }
    by_cases last : c.tx.count = 1
    · simp [last]
    · simp only [last, if_false, hen, true_iff]
      omega

theorem rxcChannel_inv (hi : c.Inv p) (h : rxcChannel p c = some c') : c'.Inv p := by
  obtain ⟨v, rest, hh, rfl⟩ := rxcChannel_some h
  have depth := hi.depth
  rw [hh, List.length_cons] at depth
  exact { hi with rx := push_inv v hi.rx, depth := Nat.le_of_succ_le depth }

/-- R103: in the invariant `SKIP` says that a transmitting channel is half-duplex, so the branch of `end_transmit` is `HD`'s. -/
theorem txcChannel_inv (hi : c.Inv p) : (txcChannel c).Inv p := by
  rcases txcChannel_cases c with ⟨h0, hm, hd, hskip, h⟩ | ⟨h0, hm, hfull, h⟩ | ⟨-, h⟩ <;> rw [h]
  · exact
      { hi with
        stopped := fun hm => nomatch hm
        txcie := by simp
        rxcie := by simp
        skip := by simp
        idleEmpty := fun _ => h0
        dreie := fun _ => hi.dreie (by simp [hm])
        configured := fun _ => hi.configured (by simp [hm])
        depth := Nat.zero_le _
        txc := fun h => nomatch h }
  · have hd : c.hd = false := by
      have hskip := hi.skip
      cases hd : c.hd <;> simp_all
    have hrxcie := hi.rxcie
    have hskip := hi.skip
    exact
      { hi with
        stopped := fun hm => nomatch hm
        txcie := by simp
        rxcie := by simp_all
        skip := by simp_all
        idleEmpty := fun _ => h0
        dreie := fun _ => hi.dreie (by simp [hm])
        configured := fun _ => hi.configured (by simp [hm])
        txc := fun h => nomatch h }
  · exact { hi with txc := fun h => nomatch h }

theorem receiveFrame_inv (hi : c.Inv p) (v : Frame) : (receiveFrame p.hwRxDepth c v).Inv p := by
  by_cases room : c.rxhold.length < p.hwRxDepth
  · rw [receiveFrame_room v room]
    exact { hi with depth := by simpa using room }
  · rw [receiveFrame_full v (Nat.le_of_not_lt room)]
    exact hi

theorem loadChannel_inv (hi : c.Inv p) (h : loadChannel c = some c') : c'.Inv p := by
  obtain ⟨b, hd, -, rfl⟩ := loadChannel_some h
  exact { hi with txc := fun htxc => nomatch hd.symm.trans (hi.txc htxc).1 }

theorem shiftdoneChannel_inv {echo : Bool} {err : Tag} (hi : c.Inv p)
    (h : shiftdoneChannel p.hwRxDepth c echo err = some c') : c'.Inv p := by
  obtain ⟨b, hb, rfl⟩ := shiftdoneChannel_some h
  refine { hi with depth := ?depth, txc := fun htxc => ⟨?waiting, rfl⟩ }
  case depth =>
    by_cases echoed : echo = true ∧ c.rxhold.length < p.hwRxDepth
    · simp [echoed]
    · simpa [echoed] using hi.depth
  case waiting =>
    by_contra hd
    simp only [hd, if_false] at htxc
    exact hd (hi.txc htxc).1

/-- What any stimulus does to the channel it names keeps that channel's invariant. -/
theorem effect_inv (hi : c.Inv s.par) (he : Effect i s t c c') : c'.Inv s.par := by
  cases i with
  | fgInit ch pmux mode baud => obtain ⟨rfl, -, -⟩ := he; exact initChannel_inv hi pmux mode baud
  | fgStart ch f => obtain ⟨rfl, -, -⟩ := he; exact startChannel_inv hi f
  | fgStop ch f => obtain ⟨rfl, -, -⟩ := he; exact stopChannel_inv hi f
  | fgWrite ch nb data =>
    obtain ⟨-, rfl, -, -⟩ | ⟨-, rfl, -, -⟩ := he
    · exact writeChannel_inv hi data
    · exact hi
  | fgRead ch => obtain ⟨r, h, -, -⟩ := he; exact readChannel_inv hi h
  | fgAvail ch | fgFree ch => obtain ⟨rfl, -, -⟩ := he; exact hi
  | fgFlush ch => obtain ⟨-, rfl, -, -⟩ | ⟨-, rfl, -, -⟩ := he <;> exact hi
  | fgStatus ch => obtain ⟨rfl, -, -⟩ := he; exact statusChannel_inv hi
  | isrDre ch => obtain ⟨hp, h, -, -⟩ := he; exact dreChannel_inv hi hp h
  | isrRxc ch => obtain ⟨-, h, -, -⟩ := he; exact rxcChannel_inv hi h
  | isrTxc ch => obtain ⟨-, rfl, -, -⟩ := he; exact txcChannel_inv hi
  | perRxframe ch err data => obtain ⟨rfl, -, -⟩ := he; exact receiveFrame_inv hi _
  | perLoad ch => obtain ⟨h, -, -⟩ := he; exact loadChannel_inv hi h
  | perShiftdone ch echo err => obtain ⟨h, -, -⟩ := he; exact shiftdoneChannel_inv hi h

/-! ### The outstanding command stays one that can be performed -/

/-- A foreground command that answers a next state found the port free (R8). -/
theorem exec_foreground_free (hfg : i.isForeground = true) (h : exec i s = .next t) : s.held = none := by
  obtain ⟨c, -, hc, -, -⟩ := exec_next_effect h
  by_contra hh
  rw [foregroundIsRefusedWhileACommandIsHeld s i c hfg hc hh] at h
  cases h

/-- A stimulus keeps the outstanding command, or becomes it, on a running channel. -/
theorem effect_held (he : Effect i s t c c') :
    t.held = s.held ∨ ∃ cmd, t.held = some cmd ∧ heldCh cmd = i.ch ∧ c' = c ∧ c.mode ≠ .stopped := by
  cases i with
  | fgWrite ch nb data =>
    obtain ⟨-, -, -, hh⟩ | ⟨hg, rfl, -, hh⟩ := he
    · exact .inl hh
    · refine .inr ⟨_, hh, rfl, rfl, fun hm => ?_⟩
      rw [writeGuard_iff.2 (.inl hm), Bool.or_true] at hg
      cases hg
  | fgFlush ch =>
    obtain ⟨-, -, -, hh⟩ | ⟨hg, rfl, -, hh⟩ := he
    · exact .inl hh
    · refine .inr ⟨_, hh, rfl, rfl, fun hm => ?_⟩
      rw [flushGuard_iff.2 (.inl hm)] at hg
      cases hg
  | fgInit | fgStart | fgStop | fgAvail | fgFree | fgStatus | perRxframe | perLoad | perShiftdone =>
    obtain ⟨-, -, hh⟩ := he
    exact .inl hh
  | fgRead => obtain ⟨r, -, -, hh⟩ := he; exact .inl hh
  | isrDre | isrRxc | isrTxc => obtain ⟨-, -, -, hh⟩ := he; exact .inl hh

/-- No handler and no move of the peripheral stops a channel (R100). -/
theorem effect_keeps_running (hfg : i.isForeground = false) (he : Effect i s t c c') (hm : c.mode ≠ .stopped) :
    c'.mode ≠ .stopped := by
  cases i with
  | fgInit | fgStart | fgStop | fgWrite | fgRead | fgAvail | fgFree | fgFlush | fgStatus => cases hfg
  | isrDre ch =>
    obtain ⟨-, h, -, -⟩ := he
    rcases dreChannel_ok h with ⟨-, rfl⟩ | ⟨-, -, b, -, rfl⟩ <;> exact hm
  | isrRxc ch =>
    obtain ⟨-, h, -, -⟩ := he
    obtain ⟨v, rest, -, rfl⟩ := rxcChannel_some h
    exact hm
  | isrTxc ch =>
    obtain ⟨-, rfl, -, -⟩ := he
    rcases txcChannel_cases c with ⟨-, -, -, -, h⟩ | ⟨-, -, -, h⟩ | ⟨-, h⟩ <;> rw [h]
    · exact fun hm => nomatch hm
    · exact fun hm => nomatch hm
    · exact hm
  | perRxframe ch err data => obtain ⟨rfl, -, -⟩ := he; rwa [receiveFrame_mode]
  | perLoad ch =>
    obtain ⟨h, -, -⟩ := he
    obtain ⟨b, -, -, rfl⟩ := loadChannel_some h
    exact hm
  | perShiftdone ch echo err =>
    obtain ⟨h, -, -⟩ := he
    obtain ⟨b, -, rfl⟩ := shiftdoneChannel_some h
    exact hm

theorem exec_keeps_held_sound (hs : s.Inv) (h : exec i s = .next t) {cmd : HeldCmd} (hh : t.held = some cmd) :
    HeldSound t cmd := by
  obtain ⟨c, c', hc, hc', he⟩ := exec_next_effect h
  rcases effect_held he with hkept | ⟨cmd', hh', hch, rfl, hm⟩
  · have hheld : s.held = some cmd := hkept.symm.trans hh
    have hfg : i.isForeground = false := by
      rw [Bool.eq_false_iff]
      exact fun hfg => nomatch (exec_foreground_free hfg h).symm.trans hheld
    obtain ⟨d, hd, hm⟩ := hs.held cmd hheld
    by_cases hch : heldCh cmd = i.ch
    · obtain rfl : d = c := Option.some.inj (hd.symm.trans (hch ▸ hc))
      exact ⟨c', hch ▸ hc', effect_keeps_running hfg he hm⟩
    · exact ⟨d, (exec_chan?_other h hch).trans hd, hm⟩
  · obtain rfl : cmd' = cmd := Option.some.inj (hh'.symm.trans hh)
    exact ⟨c', hch ▸ hc', hm⟩

/-! ### The block's invariant -/

/-- What any stimulus does keeps the block's invariant. -/
theorem exec_keeps_inv (hs : s.Inv) (h : exec i s = .next t) : t.Inv where
  params := exec_par h ▸ hs.params
  channels := exec_length h ▸ hs.channels
  chan := by
    intro d hd
    rw [exec_par h]
    obtain ⟨c, hc, ⟨c', r, rfl⟩ | ⟨-, -, cmd, rfl⟩⟩ := exec_next_shape h
    · rcases mem_put hd with rfl | hd
      · exact effect_inv (hs.of_chan? hc) (exec_effect h hc (put_chan?_same hc d r))
      · exact hs.chan d hd
    · exact hs.chan d hd
  held := fun _ hh => exec_keeps_held_sound hs h hh

/-- Taking a turn keeps the block's invariant: it takes the outstanding command or a word off, and touches no channel. -/
theorem takeTurn_keeps_inv {s' : State} (hs : s.Inv) (h : takeTurn s = .ok (i, s')) : s'.Inv := by
  rcases takeTurn_ok h with ⟨-, -, -, -, -, -, rfl⟩ | ⟨-, w, rest, -, -, rfl⟩
  · exact ⟨hs.params, hs.channels, hs.chan, fun _ hh => nomatch hh⟩
  · exact ⟨hs.params, hs.channels, hs.chan, hs.held⟩

/-- Settles O41: taking the turn and running it each keep the invariant. -/
theorem stepKeepsTheInvariant : Obligations.StepKeepsTheInvariant := by
  intro s t hs h
  obtain ⟨i, s', hturn, hexec⟩ := step_next h
  exact exec_keeps_inv (takeTurn_keeps_inv hs hturn) hexec

/-! ### No fault -/

section Fault

variable {e : Fault} {f : Channel → Result}

theorem onChannel_fault (h : onChannel s ch f = .fault e) : ∃ c, s.chan? ch = some c ∧ f c = .fault e := by
  unfold onChannel at h
  split at h
  · cases h
  · next c hc => exact ⟨c, hc, h⟩

theorem foreground_fault (h : foreground s ch f = .fault e) : ∃ c, s.chan? ch = some c ∧ f c = .fault e := by
  obtain ⟨c, hc, h⟩ := onChannel_fault h
  split at h
  · cases h
  · exact ⟨c, hc, h⟩

theorem dispatch_fault {src : Source} (h : dispatch s ch src f = .fault e) :
    ∃ c, s.chan? ch = some c ∧ pending c src = true ∧ f c = .fault e := by
  obtain ⟨c, hc, h⟩ := onChannel_fault h
  split at h
  · next hp => exact ⟨c, hc, hp, h⟩
  · cases h

/-- Only `FG.READ` and a pending `ISR.DRE` can fault: each does one `pop`, and the second fills the data register. -/
theorem exec_fault (h : exec i s = .fault e) :
    ∃ c, s.chan? i.ch = some c ∧
      (readChannel s.par c = .error e ∨ (pending c .dre = true ∧ dreChannel s.par c = .error e)) := by
  cases i with
  | fgInit | fgStart | fgStop | fgAvail | fgFree | fgStatus => obtain ⟨c, -, h⟩ := foreground_fault h; cases h
  | fgWrite | fgFlush => obtain ⟨c, -, h⟩ := foreground_fault h; split at h <;> cases h
  | fgRead ch =>
    obtain ⟨c, hc, h⟩ := foreground_fault h
    cases hr : readChannel s.par c with
    | error e' => rw [hr] at h; cases h; exact ⟨c, hc, .inl hr⟩
    | ok a => rw [hr] at h; cases h
  | isrDre ch =>
    obtain ⟨c, hc, hp, h⟩ := dispatch_fault h
    cases hr : dreChannel s.par c with
    | error e' => rw [hr] at h; cases h; exact ⟨c, hc, .inr ⟨hp, hr⟩⟩
    | ok a => rw [hr] at h; cases h
  | isrRxc => obtain ⟨c, -, -, h⟩ := dispatch_fault h; split at h <;> cases h
  | isrTxc => obtain ⟨c, -, -, h⟩ := dispatch_fault h; cases h
  | perRxframe => obtain ⟨c, -, h⟩ := onChannel_fault h; cases h
  | perLoad | perShiftdone => obtain ⟨c, -, h⟩ := onChannel_fault h; split at h <;> cases h

end Fault

/-- Settles O42: from the invariant the queued slots hold values and a pending `ISR.DRE` has its register empty. -/
theorem noStepFaultsUnderTheInvariant : Obligations.NoStepFaultsUnderTheInvariant := by
  intro s e hs h
  obtain ⟨i, s', hturn, hexec⟩ := step_fault h
  obtain ⟨c, hc, hread | ⟨hp, hdre⟩⟩ := exec_fault hexec
  all_goals have hi := (takeTurn_keeps_inv hs hturn).of_chan? hc
  · obtain ⟨c', r, hok⟩ := readChannel_runs hi
    cases hok.symm.trans hread
  · obtain ⟨c', hok⟩ := dreChannel_runs hi hp
    cases hok.symm.trans hdre

end Sys2Proof.Machine
end

section
/-! PROOFS. The order of bytes and elements (R94, R115, R125 P2, R133): what each stimulus does to the outgoing sequence and to
the receive queue of its channel; and when a transmission ends (R172). -/

namespace Sys2Proof.Machine

variable {s t : State} {ch : BitVec 4} {c c' : Channel} {i : Instr} {p : Params}

/-! ### The outgoing sequence -/

/-- With nothing queued the outgoing bytes are those handed to the peripheral. -/
theorem outgoing_of_empty (h : c.tx.count = 0) : c.outgoing p = c.handedOver := by
  rw [Channel.outgoing, queued_empty h, List.append_nil, Channel.handedOver]

/-- `ISR.DRE` moves the oldest queued byte to the data register. -/
theorem dreChannel_outgoing (hi : c.Inv p) (h : dreChannel p c = .ok c') : c'.outgoing p = c.outgoing p := by
  rcases dreChannel_ok h with ⟨-, rfl⟩ | ⟨h0, ht, b, hb, rfl⟩
  · rfl
  · simp only [Channel.outgoing, ht, queued_pop hi.tx h0 hb, Option.toList_some, Option.toList_none, List.append_nil,
      List.append_assoc, List.singleton_append]

/-- `PER.LOAD` moves the byte of the data register to the shifter. -/
theorem loadChannel_outgoing (h : loadChannel c = some c') : c'.outgoing p = c.outgoing p := by
  obtain ⟨b, hd, hs, rfl⟩ := loadChannel_some h
  simp only [Channel.outgoing, hd, hs, Option.toList_some, Option.toList_none, List.append_nil]

/-- `PER.SHIFTDONE` moves the byte of the shifter to the wire. -/
theorem shiftdoneChannel_outgoing {depth : Nat} {echo : Bool} {err : Tag}
    (h : shiftdoneChannel depth c echo err = some c') : c'.outgoing p = c.outgoing p := by
  obtain ⟨b, hb, rfl⟩ := shiftdoneChannel_some h
  simp only [Channel.outgoing, hb, Option.toList_some, Option.toList_none, List.append_nil]

/-- `FG.WRITE` appends its byte when it answers 1, and else leaves the sequence. -/
theorem writeChannel_outgoing (hi : c.Inv p) (data : Byte) :
    (writeChannel p c data).1.outgoing p =
      if (writeChannel p c data).2 = 0x0001 then c.outgoing p ++ [data] else c.outgoing p := by
  rcases writeChannel_cases p c data with ⟨-, h⟩ | ⟨-, -, h⟩ | ⟨-, hr, h2, h1⟩
  · rw [h]; rfl
  · rw [h]; rfl
  · have room : c.tx.count < p.nTx := Nat.lt_of_le_of_ne hi.tx.countLe hr
    rw [h1, h2, if_pos rfl]
    simp only [Channel.outgoing, queued_push data hi.tx room, List.append_assoc]

/-- Settles O45: a handler or a move passes one byte on within the sequence; the three commands named are its two ends. -/
theorem outgoingBytesKeepTheirOrder : Obligations.OutgoingBytesKeepTheirOrder := by
  intro s t i c c' hs h hc hc'
  have hi := hs.of_chan? hc
  have he := exec_effect h hc hc'
  cases i with
  | fgInit ch pmux mode baud =>
    obtain ⟨rfl, -, -⟩ := he
    rcases initChannel_cases s.par c pmux mode baud with ⟨hsup, h⟩ | ⟨huns, h⟩ <;> rw [h]
    · exact (outgoing_of_empty rfl).trans (if_pos hsup).symm
    · exact (if_neg (Bool.eq_false_iff.1 huns)).symm
  | fgStart ch f =>
    obtain ⟨rfl, -, -⟩ := he
    rcases startChannel_cases c f with ⟨hcfg, hm, h⟩ | ⟨hno, h⟩ <;> rw [h]
    · exact (outgoing_of_empty rfl).trans (if_pos ⟨hcfg, hm⟩).symm
    · exact (if_neg hno).symm
  | fgStop ch f => obtain ⟨rfl, -, -⟩ := he; rw [stopChannel_eq]; rfl
  | fgWrite ch nb data =>
    obtain ⟨-, rfl, hr, -⟩ | ⟨-, rfl, hr, -⟩ := he
    · simp only [writeChannel_outgoing hi data, hr, Option.some.injEq]
    · simp only [hr, reduceCtorEq, if_false]
  | fgRead ch =>
    obtain ⟨r, h, -, -⟩ := he
    rcases readChannel_ok h with ⟨-, rfl, -⟩ | ⟨-, v, -, -, rfl⟩ <;> rfl
  | fgAvail | fgFree | fgStatus => obtain ⟨rfl, -, -⟩ := he; rfl
  | fgFlush => obtain ⟨-, rfl, -, -⟩ | ⟨-, rfl, -, -⟩ := he <;> rfl
  | isrDre ch => obtain ⟨-, h, -, -⟩ := he; exact dreChannel_outgoing hi h
  | isrRxc ch =>
    obtain ⟨-, h, -, -⟩ := he
    obtain ⟨v, rest, -, rfl⟩ := rxcChannel_some h
    rfl
  | isrTxc ch =>
    obtain ⟨-, rfl, -, -⟩ := he
    rcases txcChannel_cases c with ⟨-, -, -, -, h⟩ | ⟨-, -, -, h⟩ | ⟨-, h⟩ <;> rw [h] <;> rfl
  | perRxframe ch err data =>
    obtain ⟨rfl, -, -⟩ := he
    simp only [Channel.outgoing, receiveFrame_wire, receiveFrame_txsr, receiveFrame_txdr, receiveFrame_tx]
  | perLoad ch => obtain ⟨h, -, -⟩ := he; exact loadChannel_outgoing h
  | perShiftdone ch echo err => obtain ⟨h, -, -⟩ := he; exact shiftdoneChannel_outgoing h

/-! ### The receive queue -/

/-- `FG.READ` answers the front of the queue and leaves the rest. -/
theorem readChannel_queued_rx {r : Resp} (hi : c.Inv p) (h : readChannel p c = .ok (c', r)) :
    queued p.nRx c'.rx = (queued p.nRx c.rx).tail ∧ r = respRead (queued p.nRx c.rx).head? := by
  rcases readChannel_ok h with ⟨h0, rfl, rfl⟩ | ⟨h0, v, hv, rfl, rfl⟩
  · rw [queued_empty h0]
    exact ⟨rfl, rfl⟩
  · rw [queued_pop hi.rx h0 hv]
    exact ⟨rfl, rfl⟩

/-- `ISR.RXC` appends the oldest held frame if the buffer has room. -/
theorem rxcChannel_queued_rx (hi : c.Inv p) (h : rxcChannel p c = some c') :
    queued p.nRx c'.rx = queued p.nRx c.rx ++ if c.rx.count < p.nRx then c.rxhold.take 1 else [] := by
  obtain ⟨v, rest, hh, rfl⟩ := rxcChannel_some h
  by_cases room : c.rx.count < p.nRx
  · rw [if_pos room, hh]
    exact queued_push v hi.rx room
  · have full : c.rx.count = p.nRx := Nat.le_antisymm hi.rx.countLe (Nat.le_of_not_lt room)
    rw [if_neg room, List.append_nil]
    simp only [push_full v full, queued_ovf]

/-- Settles O46: only `FG.READ`, `ISR.RXC` and the two commands that clear the buffer touch the receive queue. -/
theorem receivedElementsKeepTheirOrder : Obligations.ReceivedElementsKeepTheirOrder := by
  intro s t i c c' hs h hc hc'
  have hi := hs.of_chan? hc
  have he := exec_effect h hc hc'
  cases i with
  | fgInit ch pmux mode baud =>
    obtain ⟨rfl, -, -⟩ := he
    rcases initChannel_cases s.par c pmux mode baud with ⟨hsup, h⟩ | ⟨huns, h⟩ <;> rw [h]
    · exact (queued_empty rfl).trans (if_pos hsup).symm
    · exact (if_neg (Bool.eq_false_iff.1 huns)).symm
  | fgStart ch f =>
    obtain ⟨rfl, -, -⟩ := he
    rcases startChannel_cases c f with ⟨hcfg, hm, h⟩ | ⟨hno, h⟩ <;> rw [h]
    · exact (queued_empty rfl).trans (if_pos ⟨hcfg, hm⟩).symm
    · exact (if_neg hno).symm
  | fgStop ch f => obtain ⟨rfl, -, -⟩ := he; rw [stopChannel_eq]; rfl
  | fgWrite ch nb data =>
    obtain ⟨-, rfl, -, -⟩ | ⟨-, rfl, -, -⟩ := he
    · rcases writeChannel_cases s.par c data with ⟨-, h⟩ | ⟨-, -, h⟩ | ⟨-, -, -, h⟩ <;> rw [h]
    · rfl
  | fgRead ch =>
    obtain ⟨r, h, hr, -⟩ := he
    obtain ⟨hq, rfl⟩ := readChannel_queued_rx hi h
    refine ⟨hq, hr.trans ?_⟩
    cases (queued s.par.nRx c.rx).head? <;> rfl
  | fgAvail | fgFree | fgStatus => obtain ⟨rfl, -, -⟩ := he; rfl
  | fgFlush => obtain ⟨-, rfl, -, -⟩ | ⟨-, rfl, -, -⟩ := he <;> rfl
  | isrDre ch =>
    obtain ⟨-, h, -, -⟩ := he
    rcases dreChannel_ok h with ⟨-, rfl⟩ | ⟨-, -, b, -, rfl⟩ <;> rfl
  | isrRxc ch => obtain ⟨-, h, -, -⟩ := he; exact rxcChannel_queued_rx hi h
  | isrTxc ch =>
    obtain ⟨-, rfl, -, -⟩ := he
    rcases txcChannel_cases c with ⟨-, -, -, -, h⟩ | ⟨-, -, -, h⟩ | ⟨-, h⟩ <;> rw [h]
  | perRxframe ch err data => obtain ⟨rfl, -, -⟩ := he; rw [receiveFrame_rx]
  | perLoad ch =>
    obtain ⟨h, -, -⟩ := he
    obtain ⟨b, -, -, rfl⟩ := loadChannel_some h
    rfl
  | perShiftdone ch echo err =>
    obtain ⟨h, -, -⟩ := he
    obtain ⟨b, -, rfl⟩ := shiftdoneChannel_some h
    rfl

/-! ### The end of a transmission -/

/-- What `ISR.TXC` leaves of a channel it takes out of `Transmitting`: nothing queued, the peripheral side but `RXHOLD` kept. -/
theorem txcChannel_ends (hm : c.mode = .transmitting) (hm' : (txcChannel c).mode = .idle) :
    (txcChannel c).tx = c.tx ∧ c.tx.count = 0 ∧ (txcChannel c).txdr = c.txdr ∧ (txcChannel c).txsr = c.txsr := by
  rcases txcChannel_cases c with ⟨h0, -, -, -, h⟩ | ⟨h0, -, -, h⟩ | ⟨-, h⟩
  · rw [h]; exact ⟨rfl, h0, rfl, rfl⟩
  · rw [h]; exact ⟨rfl, h0, rfl, rfl⟩
  · rw [h] at hm'
    cases hm.symm.trans hm'

/-- Settles O53: the handler ran because `TXC` was set, and by contract P3 of the invariant the transmitter was empty then. -/
theorem transmissionEndsOnlyWhenDrained : Obligations.TransmissionEndsOnlyWhenDrained := by
  intro s t i c c' hs h hc hc' hm hm' hi
  obtain ⟨ch, rfl⟩ : ∃ ch, i = .isrTxc ch := ⟨i.ch, hi⟩
  obtain ⟨hp, rfl, -, -⟩ := exec_effect h hc hc'
  obtain ⟨hd, hsr⟩ := (hs.of_chan? hc).txc (pending_txc_iff.1 hp).2
  obtain ⟨htx, h0, htxdr, htxsr⟩ := txcChannel_ends hm hm'
  rw [← htx] at h0
  refine ⟨h0, htxdr.trans hd, htxsr.trans hsr, ?_⟩
  rw [outgoing_of_empty h0, Channel.handedOver, htxdr, htxsr, hd, hsr]
  simp only [Option.toList_none, List.append_nil]

end Sys2Proof.Machine
end

section
/-! PROOFS. Who writes `MODE`, the enables, the sticky flags and the configuration (R16, R21, R28, R100, R138), and that the
handler variant is read by nothing (R95). -/

namespace Sys2Proof.Machine

variable {s t : State} {ch : BitVec 4} {c c' : Channel} {i : Instr}

/-! ### Who writes `MODE`, the enables and the configuration -/

/-- `MODE`, the enables and the configuration are as before (R15, R16, R20, R21). -/
structure SameControl (c c' : Channel) : Prop where
  mode : c'.mode = c.mode
  rxcie : c'.rxcie = c.rxcie
  txcie : c'.txcie = c.txcie
  dreie : c'.dreie = c.dreie
  config : c'.hd = c.hd ∧ c'.baud = c.baud ∧ c'.frame = c.frame ∧ c'.pmux = c.pmux ∧ c'.configured = c.configured

/-- The six stimuli whose rules name `MODE`, an enable or the configuration. -/
def writesControl : Instr → Bool
  | .fgInit .. | .fgStart .. | .fgStop .. | .fgWrite .. | .isrDre .. | .isrTxc .. => true
  | _ => false

theorem SameControl.refl (c : Channel) : SameControl c c := ⟨rfl, rfl, rfl, rfl, rfl, rfl, rfl, rfl, rfl⟩

/-- The other nine stimuli leave them. -/
theorem effect_sameControl (hw : writesControl i = false) (he : Effect i s t c c') : SameControl c c' := by
  cases i with
  | fgInit | fgStart | fgStop | fgWrite | isrDre | isrTxc => cases hw
  | fgRead ch =>
    obtain ⟨r, h, -, -⟩ := he
    rcases readChannel_ok h with ⟨-, rfl, -⟩ | ⟨-, v, -, -, rfl⟩
    · exact .refl _
    · exact { SameControl.refl c with }
  | fgAvail | fgFree => obtain ⟨rfl, -, -⟩ := he; exact .refl _
  | fgFlush => obtain ⟨-, rfl, -, -⟩ | ⟨-, rfl, -, -⟩ := he <;> exact .refl _
  | fgStatus ch => obtain ⟨rfl, -, -⟩ := he; exact { SameControl.refl c with }
  | isrRxc ch =>
    obtain ⟨-, h, -, -⟩ := he
    obtain ⟨v, rest, -, rfl⟩ := rxcChannel_some h
    exact { SameControl.refl c with }
  | perRxframe ch err data => obtain ⟨rfl, -, -⟩ := he; constructor <;> simp
  | perLoad ch =>
    obtain ⟨h, -, -⟩ := he
    obtain ⟨b, -, -, rfl⟩ := loadChannel_some h
    exact { SameControl.refl c with }
  | perShiftdone ch echo err =>
    obtain ⟨h, -, -⟩ := he
    obtain ⟨b, -, rfl⟩ := shiftdoneChannel_some h
    exact { SameControl.refl c with }

/-- Settles O47: by the six stimuli that write `MODE` or an enable. -/
theorem modeChangesOnlyByTheTransitions : Obligations.ModeChangesOnlyByTheTransitions := by
  intro s t i c c' h hc hc' hne
  have he := exec_effect h hc hc'
  cases i with
  | fgInit ch pmux mode baud =>
    obtain ⟨rfl, -, -⟩ := he
    rcases initChannel_cases s.par c pmux mode baud with ⟨hsup, h⟩ | ⟨huns, h⟩ <;> rw [h]
    · exact (if_pos hsup).symm
    · exact (if_neg (Bool.eq_false_iff.1 huns)).symm
  | fgStart ch f =>
    obtain ⟨rfl, -, -⟩ := he
    rcases startChannel_cases c f with ⟨hcfg, hm, h⟩ | ⟨-, h⟩ <;> rw [h] at hne ⊢
    · exact ⟨hcfg, hm, rfl⟩
    · exact absurd rfl hne
  | fgStop ch f => obtain ⟨rfl, -, -⟩ := he; rw [stopChannel_eq]; rfl
  | fgWrite ch nb data =>
    obtain ⟨-, rfl, hr, -⟩ | ⟨-, rfl, -, -⟩ := he
    · rcases writeChannel_cases s.par c data with ⟨-, h⟩ | ⟨-, -, h⟩ | ⟨hm, -, h2, h1⟩
      · rw [h] at hne; exact absurd rfl hne
      · rw [h] at hne; exact absurd rfl hne
      · rw [h1] at hne ⊢
        rw [h2] at hr
        cases hmode : c.mode with
        | stopped => exact absurd hmode hm
        | idle => exact ⟨hr, rfl, rfl⟩
        | transmitting => exact absurd hmode.symm hne
    · exact absurd rfl hne
  | isrDre ch =>
    obtain ⟨-, h, -, -⟩ := he
    rcases dreChannel_ok h with ⟨-, rfl⟩ | ⟨-, -, b, -, rfl⟩ <;> exact absurd rfl hne
  | isrTxc ch =>
    obtain ⟨-, rfl, -, -⟩ := he
    rcases txcChannel_cases c with ⟨h0, hm, -, -, h⟩ | ⟨h0, hm, -, h⟩ | ⟨-, h⟩ <;> rw [h] at hne ⊢
    · exact ⟨h0, hm, rfl⟩
    · exact ⟨h0, hm, rfl⟩
    · exact absurd rfl hne
  | fgRead | fgAvail | fgFree | fgFlush | fgStatus | isrRxc | perRxframe | perLoad | perShiftdone =>
    exact hne (effect_sameControl rfl he).mode

/-- Settles O48: each of the six stimuli that write an enable is one of R138's rows. -/
theorem enablesChangeOnlyAsListed : Obligations.EnablesChangeOnlyAsListed := by
  intro s t i c c' h hc hc'
  have he := exec_effect h hc hc'
  cases i with
  | fgInit ch pmux mode baud =>
    obtain ⟨rfl, -, -⟩ := he
    rcases initChannel_cases s.par c pmux mode baud with ⟨-, h⟩ | ⟨-, h⟩ <;> rw [h] <;> simp [Instr.ch]
  | fgStart ch f =>
    obtain ⟨rfl, -, -⟩ := he
    rcases startChannel_cases c f with ⟨-, -, h⟩ | ⟨-, h⟩ <;> rw [h] <;> simp +contextual [Instr.ch]
  | fgStop ch f => obtain ⟨rfl, -, -⟩ := he; rw [stopChannel_eq]; simp [Instr.ch]
  | fgWrite ch nb data =>
    obtain ⟨-, rfl, hr, -⟩ | ⟨-, rfl, -, -⟩ := he
    · rcases writeChannel_cases s.par c data with ⟨-, h⟩ | ⟨-, -, h⟩ | ⟨-, -, h2, h1⟩
      · rw [h]; simp +contextual
      · rw [h]; simp +contextual
      · rw [h2] at hr
        rw [h1]
        by_cases hm : c.mode = .idle
        · simp +contextual [hm, hr, Instr.ch]
        · simp +contextual [hm, hr, Instr.ch]
    · simp +contextual
  | isrDre ch =>
    obtain ⟨-, h, -, -⟩ := he
    rcases dreChannel_ok h with ⟨h0, rfl⟩ | ⟨h0, -, b, -, rfl⟩
    · simp +contextual [h0, Instr.ch]
    · by_cases last : c.tx.count = 1 <;> simp +contextual [last, Instr.ch]
  | isrTxc ch =>
    obtain ⟨-, rfl, -, -⟩ := he
    rcases txcChannel_cases c with ⟨-, -, hd, -, h⟩ | ⟨-, -, -, h⟩ | ⟨-, h⟩ <;> rw [h]
    · simp +contextual [hd, Instr.ch]
    · simp +contextual [Instr.ch]
    · simp +contextual
  | fgRead | fgAvail | fgFree | fgFlush | fgStatus | isrRxc | perRxframe | perLoad | perShiftdone =>
    have kept := effect_sameControl rfl he
    rw [kept.rxcie, kept.txcie, kept.dreie]
    simp +contextual

/-- Settles O50: of the six stimuli only `FG.INIT` names the configuration, and only its `then` branch writes it. -/
theorem configurationIsWrittenOnlyByInit : Obligations.ConfigurationIsWrittenOnlyByInit := by
  intro s t i c c' h hc hc'
  have he := exec_effect h hc hc'
  cases i with
  | fgInit ch pmux mode baud =>
    obtain ⟨rfl, -, -⟩ := he
    rcases initChannel_cases s.par c pmux mode baud with ⟨hsup, h⟩ | ⟨-, h⟩ <;> rw [h]
    · exact .inr ⟨pmux, mode, baud, rfl, hsup, rfl, rfl, rfl, rfl, rfl⟩
    · exact .inl ⟨rfl, rfl, rfl, rfl, rfl⟩
  | fgStart ch f =>
    obtain ⟨rfl, -, -⟩ := he
    rcases startChannel_cases c f with ⟨-, -, h⟩ | ⟨-, h⟩ <;> rw [h] <;> exact .inl ⟨rfl, rfl, rfl, rfl, rfl⟩
  | fgStop ch f => obtain ⟨rfl, -, -⟩ := he; rw [stopChannel_eq]; exact .inl ⟨rfl, rfl, rfl, rfl, rfl⟩
  | fgWrite ch nb data =>
    obtain ⟨-, -, -, -, hframe⟩ := frameOfWrite s t ch nb data c c' hc hc' h
    rw [hframe]
    exact .inl ⟨rfl, rfl, rfl, rfl, rfl⟩
  | isrDre ch =>
    obtain ⟨hdre, -, -⟩ := frameOfHandlers s t ch c c' hc hc'
    obtain ⟨-, -, hframe⟩ := hdre h
    rw [hframe]
    exact .inl ⟨rfl, rfl, rfl, rfl, rfl⟩
  | isrTxc ch =>
    obtain ⟨-, -, htxc⟩ := frameOfHandlers s t ch c c' hc hc'
    obtain ⟨-, -, hframe⟩ := htxc h
    rw [hframe]
    exact .inl ⟨rfl, rfl, rfl, rfl, rfl⟩
  | fgRead | fgAvail | fgFree | fgFlush | fgStatus | isrRxc | perRxframe | perLoad | perShiftdone =>
    exact .inl (effect_sameControl rfl he).config

/-! ### Who writes the sticky flags -/

/-- The five sticky flags are as before (R28). -/
structure SameFlags (c c' : Channel) : Prop where
  rx : c'.rx.ovf = c.rx.ovf
  tx : c'.tx.ovf = c.tx.ovf
  errs : c'.errs = c.errs

/-- The five stimuli whose rules name a sticky flag or clear a buffer. -/
def writesFlags : Instr → Bool
  | .fgInit .. | .fgStart .. | .fgWrite .. | .fgStatus .. | .isrRxc .. => true
  | _ => false

/-- The other ten stimuli leave them. -/
theorem effect_sameFlags (hw : writesFlags i = false) (he : Effect i s t c c') : SameFlags c c' := by
  cases i with
  | fgInit | fgStart | fgWrite | fgStatus | isrRxc => cases hw
  | fgStop ch f => obtain ⟨rfl, -, -⟩ := he; rw [stopChannel_eq]; exact ⟨rfl, rfl, rfl⟩
  | fgRead ch =>
    obtain ⟨r, h, -, -⟩ := he
    rcases readChannel_ok h with ⟨-, rfl, -⟩ | ⟨-, v, -, -, rfl⟩ <;> exact ⟨rfl, rfl, rfl⟩
  | fgAvail | fgFree => obtain ⟨rfl, -, -⟩ := he; exact ⟨rfl, rfl, rfl⟩
  | fgFlush => obtain ⟨-, rfl, -, -⟩ | ⟨-, rfl, -, -⟩ := he <;> exact ⟨rfl, rfl, rfl⟩
  | isrDre ch =>
    obtain ⟨-, h, -, -⟩ := he
    rcases dreChannel_ok h with ⟨-, rfl⟩ | ⟨-, -, b, -, rfl⟩ <;> exact ⟨rfl, rfl, rfl⟩
  | isrTxc ch =>
    obtain ⟨-, rfl, -, -⟩ := he
    rcases txcChannel_cases c with ⟨-, -, -, -, h⟩ | ⟨-, -, -, h⟩ | ⟨-, h⟩ <;> rw [h] <;> exact ⟨rfl, rfl, rfl⟩
  | perRxframe ch err data => obtain ⟨rfl, -, -⟩ := he; constructor <;> simp
  | perLoad ch =>
    obtain ⟨h, -, -⟩ := he
    obtain ⟨b, -, -, rfl⟩ := loadChannel_some h
    exact ⟨rfl, rfl, rfl⟩
  | perShiftdone ch echo err =>
    obtain ⟨h, -, -⟩ := he
    obtain ⟨b, -, rfl⟩ := shiftdoneChannel_some h
    exact ⟨rfl, rfl, rfl⟩

/-- Bit `k` of a frame's tag is its bit `8 + k` (R13). -/
theorem frameTag_getLsbD (v : Frame) (k : Nat) : (frameTag v).getLsbD k = (decide (k < 3) && v.getLsbD (8 + k)) := by
  rw [frameTag, BitVec.getLsbD_extractLsb']

/-- A write that is performed on a full buffer is the non-blocking one (R114). -/
theorem nb_of_performed_full {p : Params} {nb : Bool} (hg : (nb || writeGuard p c) = true) (hm : c.mode ≠ .stopped)
    (hf : c.tx.count = p.nTx) : nb = true := by
  rcases Bool.or_eq_true_iff.1 hg with h | h
  · exact h
  · rcases writeGuard_iff.1 h with h | h
    · exact absurd h hm
    · omega

/-- Settles O49: by the five stimuli that write a flag. -/
theorem stickyFlagsChangeOnlyAsListed : Obligations.StickyFlagsChangeOnlyAsListed := by
  intro s t i c c' h hc hc'
  have he := exec_effect h hc hc'
  cases i with
  | fgInit ch pmux mode baud =>
    obtain ⟨rfl, -, -⟩ := he
    rcases initChannel_cases s.par c pmux mode baud with ⟨-, h⟩ | ⟨-, h⟩ <;> rw [h] <;> simp +contextual [Instr.ch]
  | fgStart ch f =>
    obtain ⟨rfl, -, -⟩ := he
    rcases startChannel_cases c f with ⟨-, -, h⟩ | ⟨-, h⟩ <;> rw [h] <;> simp +contextual [Instr.ch]
  | fgWrite ch nb data =>
    obtain ⟨hg, rfl, -, -⟩ | ⟨-, rfl, -, -⟩ := he
    · rcases writeChannel_cases s.par c data with ⟨-, h⟩ | ⟨hm, hf, h⟩ | ⟨-, room, -, h⟩ <;> rw [h]
      · simp +contextual
      · simp +contextual [hf, nb_of_performed_full hg hm hf, Instr.ch]
      · simp +contextual [push_room data room]
    · simp +contextual
  | fgStatus ch => obtain ⟨rfl, -, -⟩ := he; simp [statusChannel, Instr.ch]
  | isrRxc ch =>
    obtain ⟨-, h, -, -⟩ := he
    obtain ⟨v, rest, hh, rfl⟩ := rxcChannel_some h
    rcases push_cases s.par.nRx c.rx v with ⟨hf, h⟩ | ⟨-, h⟩ <;> rw [h]
    · simp +contextual [hh, hf, frameTag_getLsbD, Instr.ch]
    · simp +contextual [hh, frameTag_getLsbD, Instr.ch]
  | fgStop | fgRead | fgAvail | fgFree | fgFlush | isrDre | isrTxc | perRxframe | perLoad | perShiftdone =>
    have kept := effect_sameFlags rfl he
    rw [kept.rx, kept.tx, kept.errs]
    simp +contextual

/-! ### The handler variant (R95) -/

section Variant

variable (v : HandlerVariant)

theorem onChannel_variant {f f' : Channel → Result} (hf : ∀ c, f' c = mapNext (withVariant v) (f c)) :
    onChannel (withVariant v s) ch f' = mapNext (withVariant v) (onChannel s ch f) := by
  have hch : (withVariant v s).chan? ch = s.chan? ch := rfl
  cases hc : s.chan? ch with
  | none => rw [onChannel_absent hc, onChannel_absent (hch.trans hc)]; rfl
  | some c => rw [onChannel_eq hc, onChannel_eq (hch.trans hc), hf]

theorem foreground_variant {f f' : Channel → Result} (hf : ∀ c, f' c = mapNext (withVariant v) (f c)) :
    foreground (withVariant v s) ch f' = mapNext (withVariant v) (foreground s ch f) := by
  refine onChannel_variant v fun c => ?_
  have held : (withVariant v s).held = s.held := rfl
  rw [held]
  split
  · rfl
  · exact hf c

theorem dispatch_variant (src : Source) {f f' : Channel → Result} (hf : ∀ c, f' c = mapNext (withVariant v) (f c)) :
    dispatch (withVariant v s) ch src f' = mapNext (withVariant v) (dispatch s ch src f) := by
  refine onChannel_variant v fun c => ?_
  split
  · exact hf c
  · rfl

/-- `exec` reads the capacities, the depth and `cfg_supported` of a build, and not its variant. -/
theorem exec_variant (i : Instr) (s : State) : exec i (withVariant v s) = mapNext (withVariant v) (exec i s) := by
  cases i with
  | fgInit | fgStart | fgStop | fgAvail | fgFree | fgStatus => exact foreground_variant v fun _ => rfl
  | fgWrite ch nb data =>
    refine foreground_variant v fun c => ?_
    have guard : writeGuard (withVariant v s).par c = writeGuard s.par c := rfl
    rw [guard]
    split <;> rfl
  | fgRead ch =>
    refine foreground_variant v fun c => ?_
    have hread : readChannel (withVariant v s).par c = readChannel s.par c := rfl
    rw [hread]
    cases readChannel s.par c <;> rfl
  | fgFlush ch => refine foreground_variant v fun c => ?_; split <;> rfl
  | isrDre ch =>
    refine dispatch_variant v .dre fun c => ?_
    have hdre : dreChannel (withVariant v s).par c = dreChannel s.par c := rfl
    rw [hdre]
    cases dreChannel s.par c <;> rfl
  | isrRxc ch =>
    refine dispatch_variant v .rxc fun c => ?_
    have hrxc : rxcChannel (withVariant v s).par c = rxcChannel s.par c := rfl
    rw [hrxc]
    cases rxcChannel s.par c <;> rfl
  | isrTxc ch => exact dispatch_variant v .txc fun _ => rfl
  | perRxframe ch err data => exact onChannel_variant v fun _ => rfl
  | perLoad ch =>
    refine onChannel_variant v fun c => ?_
    cases loadChannel c <;> rfl
  | perShiftdone ch echo err =>
    refine onChannel_variant v fun c => ?_
    have hshift : shiftdoneChannel (withVariant v s).par.hwRxDepth c echo err = shiftdoneChannel s.par.hwRxDepth c echo err :=
      rfl
    rw [hshift]
    cases shiftdoneChannel s.par.hwRxDepth c echo err <;> rfl

/-- Whose turn it is does not depend on the variant. -/
theorem takeTurn_variant (s : State) :
    takeTurn (withVariant v s) = (takeTurn s).map fun is => (is.1, withVariant v is.2) := by
  have ready : heldReady (withVariant v s) = heldReady s := rfl
  have stimuli : (withVariant v s).stimuli = s.stimuli := rfl
  have chans : (withVariant v s).chans = s.chans := rfl
  rw [takeTurn, takeTurn, ready, stimuli, chans]
  cases heldReady s with
  | some i => rfl
  | none =>
    cases s.stimuli with
    | nil => rfl
    | cons w rest => cases hd : decode s.chans.length w <;> simp only [hd] <;> rfl

theorem step_variant (s : State) : step (withVariant v s) = mapNext (withVariant v) (step s) := by
  rw [step, step, takeTurn_variant]
  cases takeTurn s with
  | error r => rfl
  | ok is => exact exec_variant v is.1 is.2

end Variant

/-- Settles O52. -/
theorem handlerVariantHasNoEffect : Obligations.HandlerVariantHasNoEffect :=
  fun v i s => ⟨exec_variant v i s, step_variant v s⟩

end Sys2Proof.Machine
end

section
/-! PROOFS. Held commands over two steps (R114, R118), handlers that commute (R48), quiescence (R164), and a channel that has
not been started (R162). -/

namespace Sys2Proof.Machine

variable {s t : State} {ch : BitVec 4} {c c' : Channel} {i : Instr}

/-! ### Handlers and moves beside a held command -/

/-- A handler or a move of the peripheral leaves the outstanding command and answers nothing (R65). -/
theorem exec_background (hfg : i.isForeground = false) (h : exec i s = .next t) : t.held = s.held ∧ t.resp = none := by
  obtain ⟨c, c', -, -, he⟩ := exec_next_effect h
  cases i with
  | fgInit | fgStart | fgStop | fgWrite | fgRead | fgAvail | fgFree | fgFlush | fgStatus => cases hfg
  | isrDre | isrRxc | isrTxc => obtain ⟨-, -, hr, hh⟩ := he; exact ⟨hh, hr⟩
  | perRxframe | perLoad | perShiftdone => obtain ⟨-, hr, hh⟩ := he; exact ⟨hh, hr⟩

/-- While a command is held whose guard is false, a step that answers a next state is a handler's or the peripheral's. -/
theorem step_while_held (hn : NotReady s) (hh : s.held ≠ none) (h : step s = .next t) :
    t.held = s.held ∧ t.resp = none := by
  obtain ⟨i, s', hturn, hexec⟩ := step_next h
  rcases takeTurn_ok hturn with ⟨cmd, c, hcmd, hc, hg, -, -⟩ | ⟨-, w, rest, -, -, rfl⟩
  · exact absurd hg (hn cmd hcmd c hc)
  · have hfg : i.isForeground = false := by
      rw [Bool.eq_false_iff]
      intro hfg
      have free := exec_foreground_free hfg hexec
      exact hh free
    have kept := exec_background hfg hexec
    exact kept

/-- The outstanding command is not ready when its guard is false on its channel. -/
theorem notReady_of_guard {cmd : HeldCmd} (hh : s.held = some cmd) (hc : s.chan? (heldCh cmd) = some c)
    (hg : ¬ HeldGuard s.par c cmd) : NotReady s := by
  intro cmd' hh' c' hc'
  obtain rfl : cmd = cmd' := Option.some.inj (hh.symm.trans hh')
  obtain rfl : c = c' := Option.some.inj (hc.symm.trans hc')
  exact hg

/-- The guard of `FG.FLUSH` is false on a transmitting channel. -/
theorem flush_waits {p : Params} (hm : c.mode = .transmitting) : ¬ HeldGuard p c (.flush ch) := by
  simp [HeldGuard, hm]

/-- Settles O54: the flush is not ready, and what else gives a next state leaves it outstanding. -/
theorem flushStaysHeldWhileTransmitting : Obligations.FlushStaysHeldWhileTransmitting := by
  intro s t ch c hh hc hm h
  have waiting : NotReady s := notReady_of_guard hh hc (flush_waits hm)
  obtain ⟨hheld, hresp⟩ := step_while_held waiting (by rw [hh]; exact Option.some_ne_none _) h
  exact ⟨hheld.trans hh, hresp⟩

/-! ### A handler's step lifts the hold -/

/-- A step whose next word is an instruction's encoding runs that instruction. -/
theorem step_encoded {rest : List Stimulus} (hn : NotReady s) (hc : s.chan? i.ch = some c)
    (hw : s.stimuli = encode i :: rest) : step s = exec i { s with stimuli := rest } :=
  step_taken hn hw (decodeOfEncodeGivesTheInstruction _ i (chan?_eq_some hc))

/-- Settles O55: `ISR.TXC` takes the channel to `Idle` with nothing queued, where the flush's guard is true. -/
theorem heldFlushReturnsAfterIsrTxc : Obligations.HeldFlushReturnsAfterIsrTxc := by
  intro s ch c rest hh hc hm h0 hen htxc hw
  have waiting : NotReady s := notReady_of_guard hh hc (flush_waits hm)
  have hp : pending c .txc = true := pending_txc_iff.2 ⟨hen, htxc⟩
  have ready : HeldGuard s.par (txcChannel c) (.flush ch) := by
    right
    rw [txcChannel_drained h0 hm, endTransmit_tx, endTransmit_mode]
    exact ⟨h0, fun h => nomatch h⟩
  have first := (step_encoded (i := .isrTxc ch) waiting hc hw).trans (exec_isrTxc hc hp)
  have hc1 := put_chan?_same (s := { s with stimuli := rest }) hc (txcChannel c) none
  have second := step_held_flush (s := State.put { s with stimuli := rest } ch (txcChannel c) none) hh hc1 ready
  exact ⟨_, _, first, second, rfl, rfl, rfl⟩

/-- `ISR.DRE` on a queued byte takes it off the transmit queue and leaves `MODE`. -/
theorem dreChannel_dequeues {p : Params} (hi : c.Inv p) (h0 : c.tx.count ≠ 0) (h : dreChannel p c = .ok c') :
    c'.mode = c.mode ∧ c'.tx.count + 1 = c.tx.count ∧ queued p.nTx c'.tx = (queued p.nTx c.tx).tail := by
  rcases dreChannel_ok h with ⟨hempty, -⟩ | ⟨-, -, b, hb, rfl⟩
  · exact absurd hempty h0
  · rw [queued_pop hi.tx h0 hb, List.tail_cons]
    exact ⟨rfl, Nat.sub_add_cancel (Nat.pos_of_ne_zero h0), rfl⟩

/-- Settles O56: `ISR.DRE` makes room for one byte, and the write puts its byte there. -/
theorem heldWriteIsEnqueuedAfterIsrDre : Obligations.HeldWriteIsEnqueuedAfterIsrDre := by
  intro s ch data c rest hs hh hc hm hf htxdr hw
  have hi := hs.of_chan? hc
  have running : c.mode ≠ .stopped := by simp [hm]
  have capacity : 0 < s.par.nTx := Nat.two_pow_pos s.par.kTx
  have not_empty : c.tx.count ≠ 0 := by omega
  have hp : pending c .dre = true := pending_dre_iff.2 ⟨(hi.dreie running).2 (Nat.pos_of_ne_zero not_empty), htxdr⟩
  have waiting : NotReady s := notReady_of_guard hh hc (by simp [HeldGuard, hm, hf])
  obtain ⟨c1, h1⟩ := dreChannel_runs hi hp
  obtain ⟨hm1, hcount, hq⟩ := dreChannel_dequeues hi not_empty h1
  have hi1 := dreChannel_inv hi hp h1
  have room : c1.tx.count < s.par.nTx := by omega
  have accepted := writeChannel_accepted data (hm1 ▸ running) (Nat.ne_of_lt room)
  have first := (step_encoded (i := .isrDre ch) waiting hc hw).trans (exec_isrDre hc hp h1)
  have hc1 := put_chan?_same (s := { s with stimuli := rest }) hc c1 none
  have second := step_held_write (s := State.put { s with stimuli := rest } ch c1 none) hh hc1 (.inr room)
  rw [put_par, accepted] at second
  refine ⟨_, _, _, first, second, rfl, rfl, rfl, put_chan?_same hc1 _ (some 1), ?_⟩
  change queued s.par.nTx (push s.par.nTx c1.tx data).1 = _
  rw [queued_push data hi1.tx room, hq]

/-! ### Handlers that commute -/

theorem put_put (s : State) (ch : BitVec 4) (c c' : Channel) (r r' : Option Resp) :
    (s.put ch c r).put ch c' r' = s.put ch c' r' := by
  simp [State.put]

/-- `ISR.DRE` reads nothing that `ISR.RXC` writes, and the reverse. -/
theorem dre_rxc_commute {p : Params} {c1 c2 : Channel} (h1 : dreChannel p c = .ok c1) (h2 : rxcChannel p c = some c2) :
    ∃ u, rxcChannel p c1 = some u ∧ dreChannel p c2 = .ok u := by
  obtain ⟨v, rest, hh, rfl⟩ := rxcChannel_some h2
  rcases dreChannel_ok h1 with ⟨h0, rfl⟩ | ⟨h0, ht, b, hb, rfl⟩
  · exact ⟨_, rxcChannel_held (c := { c with dreie := false }) p hh, dreChannel_empty p h0⟩
  · exact ⟨_, rxcChannel_held (v := v) (rest := rest) p hh, dreChannel_queued p h0 hb ht⟩

/-- Settles O57: the two channel functions commute, and each leaves the other's interrupt pending. -/
theorem dreAndRxcHandlersCommute : Obligations.DreAndRxcHandlersCommute := by
  intro s ch c hs hc hdre hrxc
  obtain ⟨c1, h1⟩ := dreChannel_runs (hs.of_chan? hc) hdre
  obtain ⟨c2, h2⟩ := rxcChannel_runs s.par hrxc
  obtain ⟨u, h1u, h2u⟩ := dre_rxc_commute h1 h2
  have hrxc1 : pending c1 .rxc = true := by
    rcases dreChannel_ok h1 with ⟨-, rfl⟩ | ⟨-, -, b, -, rfl⟩ <;> exact hrxc
  have hdre2 : pending c2 .dre = true := by
    obtain ⟨v, rest, -, rfl⟩ := rxcChannel_some h2
    exact hdre
  have second := exec_isrRxc (s := s.put ch c1 none) (put_chan?_same hc c1 none) hrxc1 h1u
  have second' := exec_isrDre (s := s.put ch c2 none) (put_chan?_same hc c2 none) hdre2 h2u
  rw [put_put] at second second'
  exact ⟨_, _, _, exec_isrDre hc hdre h1, second, exec_isrRxc hc hrxc h2, second'⟩

/-! ### Quiescence -/

/-- Settles O60: with no command held the step runs the next word; on another channel it leaves this one, and on this one what
is neither a foreground command nor a frame is refused. -/
theorem quiescentChannelChangesOnlyFromOutside : Obligations.QuiescentChannelChangesOnlyFromOutside := by
  intro s t ch hq h hne
  obtain ⟨hfree, c, hc, quiet⟩ := hq
  obtain ⟨i, s', hturn, hexec⟩ := step_next h
  rcases takeTurn_ok hturn with ⟨cmd, -, hcmd, -, -, -, -⟩ | ⟨-, w, rest, hw, hd, rfl⟩
  · cases hfree.symm.trans hcmd
  · have hch : i.ch = ch := by
      by_contra hother
      have kept := exec_chan?_other hexec (Ne.symm hother)
      exact hne kept
    refine ⟨w, rest, i, hw, hd, hch, ?_⟩
    by_contra outside
    obtain ⟨hfg, hframe⟩ := not_or.1 outside
    subst hch
    obtain ⟨r, hr⟩ := quietChannelRefusesEveryOtherMove { s with stimuli := rest } i c hc quiet (Bool.eq_false_iff.2 hfg)
      fun ch err data hi => hframe ⟨err, data, by rw [hi]; rfl⟩
    cases hr.symm.trans hexec

/-! ### A channel that has not been started -/

theorem reset_unstarted (l : Latches) : (Channel.reset l).Unstarted where
  configured := rfl
  mode := rfl
  enables := ⟨rfl, rfl, rfl⟩
  counts := ⟨rfl, rfl⟩
  flags := ⟨rfl, rfl, rfl, rfl⟩
  pins := rfl
  transmitter := ⟨rfl, rfl⟩

section Unstarted

variable (hu : c.Unstarted)
include hu

theorem enterStopped_unstarted : enterStopped c = c := by
  obtain ⟨-, hm, ⟨hdre, hrxc, htxc⟩, -, ⟨-, -, -, hskip⟩, -, -⟩ := hu
  cases c
  simp_all [enterStopped]

theorem stopChannel_unstarted (f : Bool) : stopChannel c f = (c, 0) := by
  rw [stopChannel_eq, enterStopped_unstarted hu, hu.pins, ite_self, ← hu.pins]

theorem initChannel_unstarted {p : Params} {mode : BitVec 16} {baud : BitVec 32} (pmux : BitVec 4)
    (h : p.cfgSupported baud (modeFrame mode) = false) : initChannel p c pmux mode baud = (c, 0) := by
  rw [initChannel_unsupported c pmux h, enterStopped_unstarted hu]
  rfl

theorem startChannel_unstarted (f : Bool) : startChannel c f = (c, 0) := startChannel_noop f (.inl hu.configured)

theorem statusChannel_unstarted : statusChannel c = (c, 0) := by
  obtain ⟨-, -, -, -, ⟨hrx, htx, herrs, -⟩, -, -⟩ := hu
  have answer : respStatus c = 0 := by rw [respStatus, hrx, htx, herrs]; decide
  have rx_kept : { c.rx with ovf := false } = c.rx := by rw [← hrx]
  have tx_kept : { c.tx with ovf := false } = c.tx := by rw [← htx]
  rw [statusChannel, answer, rx_kept, tx_kept, ← herrs]

/-- No stimulus but an `FG.INIT` that answers 1 starts the channel. -/
theorem effect_unstarted (he : Effect i s t c c') :
    c'.Unstarted ∨ ∃ pmux mode baud, i = .fgInit i.ch pmux mode baud ∧ t.resp = some 0x0001 := by
  obtain ⟨hdre, hrxc, htxc⟩ := hu.enables
  obtain ⟨htxdr, htxsr⟩ := hu.transmitter
  cases i with
  | fgInit ch pmux mode baud =>
    obtain ⟨rfl, hr, -⟩ := he
    rcases initChannel_cases s.par c pmux mode baud with ⟨-, h⟩ | ⟨huns, -⟩
    · rw [h] at hr
      exact .inr ⟨pmux, mode, baud, rfl, hr⟩
    · rw [initChannel_unstarted hu pmux huns]
      exact .inl hu
  | fgStart ch f => obtain ⟨rfl, -, -⟩ := he; rw [startChannel_unstarted hu]; exact .inl hu
  | fgStop ch f => obtain ⟨rfl, -, -⟩ := he; rw [stopChannel_unstarted hu]; exact .inl hu
  | fgWrite ch nb data =>
    obtain ⟨-, rfl, -, -⟩ | ⟨-, rfl, -, -⟩ := he
    · rw [writeChannel_stopped s.par data hu.mode]; exact .inl hu
    · exact .inl hu
  | fgRead ch =>
    obtain ⟨r, h, -, -⟩ := he
    rw [readChannel_empty s.par hu.counts.1] at h
    cases h
    exact .inl hu
  | fgAvail | fgFree => obtain ⟨rfl, -, -⟩ := he; exact .inl hu
  | fgFlush => obtain ⟨-, rfl, -, -⟩ | ⟨-, rfl, -, -⟩ := he <;> exact .inl hu
  | fgStatus ch => obtain ⟨rfl, -, -⟩ := he; rw [statusChannel_unstarted hu]; exact .inl hu
  | isrDre ch => obtain ⟨hp, -, -, -⟩ := he; cases (dre_notPending (.inl hdre)).symm.trans hp
  | isrRxc ch => obtain ⟨hp, -, -, -⟩ := he; cases (rxc_notPending (.inl hrxc)).symm.trans hp
  | isrTxc ch => obtain ⟨hp, -, -, -⟩ := he; cases (txc_notPending (.inl htxc)).symm.trans hp
  | perRxframe ch err data =>
    obtain ⟨rfl, -, -⟩ := he
    left
    unfold receiveFrame
    split
    · exact { hu with }
    · exact hu
  | perLoad ch => obtain ⟨h, -, -⟩ := he; cases (loadChannel_disabled (.inl htxdr)).symm.trans h
  | perShiftdone ch echo err => obtain ⟨h, -, -⟩ := he; cases (shiftdoneChannel_disabled _ echo err htxsr).symm.trans h

end Unstarted

/-- Settles O13: the answers of the fifteen stimuli on an unstarted channel, and that such a channel stays one. -/
theorem beforeInitNothingChanges : Obligations.BeforeInitNothingChanges := by
  refine ⟨fun p ls c hc => ?reset, fun s i c hc hu hfree => ?answers, fun s t i k c hk hu h => ?stays⟩
  case reset =>
    rw [resetOf_chans, List.mem_map] at hc
    obtain ⟨l, -, rfl⟩ := hc
    exact reset_unstarted l
  case answers =>
    obtain ⟨hdre, hrxc, htxc⟩ := hu.enables
    obtain ⟨hrx, htx⟩ := hu.counts
    obtain ⟨htxdr, htxsr⟩ := hu.transmitter
    cases i with
    | fgInit ch pmux mode baud =>
      intro huns
      exact (exec_fgInit hc (hfree rfl) pmux mode baud).trans (by rw [initChannel_unstarted hu pmux huns]; rfl)
    | fgStart ch f => exact (exec_fgStart hc (hfree rfl) f).trans (by rw [startChannel_unstarted hu]; rfl)
    | fgStop ch f => exact (exec_fgStop hc (hfree rfl) f).trans (by rw [stopChannel_unstarted hu]; rfl)
    | fgWrite ch nb data => exact fgWriteWhileStoppedIsANoOp s ch nb data c hc (hfree rfl) hu.mode
    | fgRead ch => exact exec_fgRead hc (hfree rfl) (readChannel_empty s.par hrx)
    | fgAvail ch => exact (exec_fgAvail hc (hfree rfl)).trans (by rw [available, hrx]; rfl)
    | fgFree ch => exact (exec_fgFree hc (hfree rfl)).trans (by rw [freeSpace, htx]; rfl)
    | fgFlush ch => exact exec_fgFlush hc (hfree rfl) (flushGuard_iff.2 (.inl hu.mode))
    | fgStatus ch => exact (exec_fgStatus hc (hfree rfl)).trans (by rw [statusChannel_unstarted hu]; rfl)
    | isrDre ch => exact exec_isrDre_refused hc (dre_notPending (.inl hdre))
    | isrRxc ch => exact exec_isrRxc_refused hc (rxc_notPending (.inl hrxc))
    | isrTxc ch => exact exec_isrTxc_refused hc (txc_notPending (.inl htxc))
    | perRxframe ch err data =>
      refine (exec_perRxframe hc err data).trans ?_
      by_cases room : c.rxhold.length < s.par.hwRxDepth
      · rw [receiveFrame_room _ room, if_pos room]; rfl
      · rw [receiveFrame_full _ (Nat.le_of_not_lt room), if_neg room]
    | perLoad ch => exact exec_perLoad_refused hc (loadChannel_disabled (.inl htxdr))
    | perShiftdone ch echo err => exact exec_perShiftdone_refused hc (shiftdoneChannel_disabled _ echo err htxsr)
  case stays =>
    by_cases hch : k = i.ch.toNat
    · subst hch
      obtain ⟨d, c', hd, hc', he⟩ := exec_next_effect h
      obtain rfl : c = d := Option.some.inj (hk.symm.trans hd)
      rcases effect_unstarted hu he with hu' | ⟨pmux, mode, baud, hi, hr⟩
      · exact .inl ⟨c', hc', hu'⟩
      · exact .inr ⟨pmux, mode, baud, hi, rfl, hr⟩
    · obtain ⟨-, -, -, hother⟩ := stepWritesOnlyItsOwnChannel i s t h
      exact .inl ⟨c, (hother k hch).trans hk, hu⟩

end Sys2Proof.Machine
end
